-- ==== Sys2Proof/Word.lean ====
section
/-! DEFINITION. The words of the block (00_scope.md R8): 16-bit wire words and 35-bit command words. -/

namespace Sys2Proof

/-- A wire word: a 16-bit unsigned value, bit 0 the least significant (R8, R70). -/
abbrev Word := BitVec 16

/-- A command word of the command port: 35 bits (30_encoding.md R87). -/
abbrev CmdWord := BitVec 35

end Sys2Proof
end

