-- ==== Sys2Proof/Config.lean ====
section
/-! DEFINITION. The constants of 00_scope.md R6 and the open parameters of R7. -/

namespace Sys2Proof.Config

/-- `WORD_BITS`: width of a wire word and number of clock pulses of a transfer (R6). -/
def wordBits : Nat := 16

/-- `TAG_CTRL`, tag bits `00` (R6). -/
def tagCtrl : Word := 0x0000
/-- `TAG_FREQ`, tag bits `01` (R6). -/
def tagFreq : Word := 0x4000
/-- `TAG_PHASE`, tag bits `11` (R6). -/
def tagPhase : Word := 0xC000
/-- `TAG_10`, tag bits `10`; never emitted (R6, R74). -/
def tag10 : Word := 0x8000

/-- `FMAX`, the largest frequency magnitude (R6). -/
def fmax : Nat := 0x2E23
/-- `PMAX`, the largest phase magnitude (R6). -/
def pmax : Nat := 0x0FFF

/-- `BIT_RESET` (R6). -/
def bitReset : Nat := 8
/-- `BIT_HALF` (R6). -/
def bitHalf : Nat := 12
/-- `BIT_SHAPE_HI` (R6). -/
def bitShapeHi : Nat := 5
/-- `BIT_SHAPE_LO` (R6). -/
def bitShapeLo : Nat := 1

/-- The mask of `BIT_RESET` (R6). -/
def maskReset : Word := 0x0100
/-- The mask of `BIT_HALF` (R6). -/
def maskHalf : Word := 0x1000
/-- The mask of `BIT_SHAPE_HI` (R6). -/
def maskShapeHi : Word := 0x0020
/-- The mask of `BIT_SHAPE_LO` (R6). -/
def maskShapeLo : Word := 0x0002
/-- `CW_MASK`, the OR of the four masks: every other bit of the control word is always 0 (R6, R13). -/
def cwMask : Word := 0x1122

/-- `N_CHIPS` (R6). -/
def nChips : Nat := 2

/-- `OPW`, the width of a numeric operand at the command port (R7, 92_eei_decisions.md D3). -/
def opw : Nat := 16

/-- `TICKS_PER_STEP`: clock ticks of one micro-step (R7, D19). -/
def ticksPerStep : Nat := 1

/-- The parameters R7 leaves open. Statements are made for every value of them. -/
structure Params where
  /-- `EXPOSE_XFER`: may XFER be issued at the command port (D6) -/
  exposeXfer : Bool
  /-- `FREQ_RESET`: reset value of FX and FY (D13) -/
  freqReset : Word
  /-- `PHASE_RESET`: reset value of PH (D13) -/
  phaseReset : BitVec 12
  /-- `SDATA_RESET_A`: level of SDATA_A after reset (D13) -/
  sdataResetA : Bool
  /-- `SDATA_RESET_B`: level of SDATA_B after reset (D13) -/
  sdataResetB : Bool
  deriving DecidableEq, Repr

/-- The values `State.reset` takes. `exposeXfer` is the spec's default (R7). PRESUMED: `freqReset` and
`phaseReset` are the family's values R7 suggests (log entry 2). DESIGN CHOICE: the data lines start
low (log entry 3). -/
def defaults : Params :=
  { exposeXfer := false, freqReset := 0x69F1, phaseReset := 0x400, sdataResetA := false, sdataResetB := false }

end Sys2Proof.Config
end

