-- ==== Sys2Proof/Syntax.lean ====
section
/-! DEFINITION. The instructions: one constructor for each row of spec/opcode_table.json. -/

namespace Sys2Proof

/-- The eight command rows (30_encoding.md R88) and the four wire rows (R71 to R74). A numeric operand is a
natural number, as R75 and R130 allow; the port carries 16 bits of it (WellFormed). -/
inductive Instr where
  /-- XFER, `wave_xfer`: word `a` to chip A, word `b` to chip B (R100) -/
  | xfer (a b : Word)
  /-- SETRESET, `setReset` (R120) -/
  | setReset (en : Bool)
  /-- SETRANGE, `setFrequencyRange` (R124) -/
  | setRange (hi : Bool)
  /-- SETFREQ, `setFrequency` (R130) -/
  | setFreq (v : Nat)
  /-- SETAXISFREQ, `setAxisFrequency` (R135) -/
  | setAxisFreq (x y : Nat)
  /-- SETPHASE, `setPhaseDifference` (R140) -/
  | setPhase (v : Nat)
  /-- SETSHAPE, `setShape`, with its code (R150); a code outside 0, 1, 2 faults (R153) -/
  | setShape (code : Nat)
  /-- RESERVED7: a command word with `op = 7`, with the 32 bits the spec gives no meaning (R89) -/
  | reserved7 (u : BitVec 32)
  /-- CTRL, the wire word `000h000r00q000m0` (R71) -/
  | ctrl (half reset shapeHi shapeLo : Bool)
  /-- FREQ, the wire word of tag `01` (R72) -/
  | freq (f : BitVec 14)
  /-- PHASE, the wire word of tag `11` with bits 13:12 zero (R73) -/
  | phase (p : BitVec 12)
  /-- TAG10, the wire word of tag `10` (R74) -/
  | tag10 (u : BitVec 14)
  deriving DecidableEq, Repr

/-- Is it an operation of the public surface (00_scope.md R3)? -/
def Instr.isPublic : Instr → Bool
  | .xfer _ _ => false
  | .setReset _ => true
  | .setRange _ => true
  | .setFreq _ => true
  | .setAxisFreq _ _ => true
  | .setPhase _ => true
  | .setShape _ => true
  | .reserved7 _ => false
  | .ctrl _ _ _ _ => false
  | .freq _ => false
  | .phase _ => false
  | .tag10 _ => false

/-- Is it one of the seven operations of 00_scope.md R3? -/
def Instr.isOperation : Instr → Bool
  | .xfer _ _ => true
  | .setReset _ => true
  | .setRange _ => true
  | .setFreq _ => true
  | .setAxisFreq _ _ => true
  | .setPhase _ => true
  | .setShape _ => true
  | .reserved7 _ => false
  | .ctrl _ _ _ _ => false
  | .freq _ => false
  | .phase _ => false
  | .tag10 _ => false

end Sys2Proof
end

