-- ==== Sys2Proof/WellFormed.lean ====
section
/-! DEFINITION. Which instructions have an encoding: every operand fits its field (30_encoding.md R87, R88). -/

namespace Sys2Proof

/-- A numeric operand fits the `OPW` bits of its field (00_scope.md R7, R87). -/
def operandFits (v : Nat) : Bool := decide (v < 2 ^ Config.opw)

/-- A shape code fits `a[1:0]` (R88); the code 3 fits and faults when it is performed (R153). -/
def shapeFits (code : Nat) : Bool := decide (code < 4)

/-- Every operand fits its field. -/
def Instr.wellFormed : Instr → Bool
  | .xfer _ _ => true
  | .setReset _ => true
  | .setRange _ => true
  | .setFreq v => operandFits v
  | .setAxisFreq x y => operandFits x && operandFits y
  | .setPhase v => operandFits v
  | .setShape code => shapeFits code
  | .reserved7 _ => true
  | .ctrl _ _ _ _ => true
  | .freq _ => true
  | .phase _ => true
  | .tag10 _ => true

end Sys2Proof
end

