-- ==== Sys2Proof/Decode.lean ====
section
/-! DEFINITION. The decoders and encoders of command words (30_encoding.md R87 to R89, 44_decode.md R168) and
of wire words (30_encoding.md R70 to R74, 44_decode.md R160 to R164). -/

namespace Sys2Proof

/-! ## The rows of spec/opcode_table.json -/

/-- A row's match and mask over words of `n` bits. -/
structure Row (n : Nat) where
  mask : BitVec n
  pattern : BitVec n
  deriving DecidableEq, Repr

/-- The row matches the word: `(c & mask) = match` (R168). -/
def rowHits {n : Nat} (r : Row n) (c : BitVec n) : Bool := (c &&& r.mask) == r.pattern

def rowXfer : Row 35 := ⟨0x700000000, 0x000000000⟩
def rowSetReset : Row 35 := ⟨0x7FFFEFFFF, 0x100000000⟩
def rowSetRange : Row 35 := ⟨0x7FFFEFFFF, 0x200000000⟩
def rowSetFreq : Row 35 := ⟨0x70000FFFF, 0x300000000⟩
def rowSetAxisFreq : Row 35 := ⟨0x700000000, 0x400000000⟩
def rowSetPhase : Row 35 := ⟨0x70000FFFF, 0x500000000⟩
def rowSetShape : Row 35 := ⟨0x7FFFCFFFF, 0x600000000⟩
def rowReserved7 : Row 35 := ⟨0x700000000, 0x700000000⟩
def rowCtrl : Row 16 := ⟨0xEEDD, 0x0000⟩
def rowFreq : Row 16 := ⟨0xC000, 0x4000⟩
def rowPhase : Row 16 := ⟨0xF000, 0xC000⟩
def rowTag10 : Row 16 := ⟨0xC000, 0x8000⟩

/-- The command rows, in the table's order. -/
def commandRows : List (Row 35) :=
  [rowXfer, rowSetReset, rowSetRange, rowSetFreq, rowSetAxisFreq, rowSetPhase, rowSetShape, rowReserved7]

/-- The wire rows, in the table's order. -/
def wireRows : List (Row 16) := [rowCtrl, rowFreq, rowPhase, rowTag10]

/-! ## Wire words (44_decode.md) -/

/-- The four classes of wire words (R160). -/
inductive WireClass where
  | ctrl | freq | tag10 | phase
  deriving DecidableEq, Repr

/-- The three shapes. The names follow 10_state.md R14 and 92_eei_decisions.md D20 (log entry 10). -/
inductive Shape where
  /-- code 0: SHAPE_HI = 0, SHAPE_LO = 0 -/
  | sine
  /-- code 1: SHAPE_HI = 0, SHAPE_LO = 1 -/
  | triangle
  /-- code 2: SHAPE_HI = 1, SHAPE_LO = 0 -/
  | square
  deriving DecidableEq, Repr

/-- The closed set of shape codes: 0, 1, 2 and nothing else (30_encoding.md R81). -/
def shapeOfCode : Nat → Option Shape
  | 0 => some .sine
  | 1 => some .triangle
  | 2 => some .square
  | _ => none

/-- Why a format decoder refuses a word: "not a word this block sends" (R161 to R163). -/
inductive NotEmitted where
  | reservedBitsSet | unreachableShape | aboveFmax
  deriving DecidableEq, Repr

/-- The fields of a control word, as decodeCtrl returns them (R161). -/
structure CtrlFields where
  reset : Bool
  half : Bool
  shape : Shape
  deriving DecidableEq, Repr

/-- What decodeWord returns (R164). -/
inductive WireInfo where
  | ctrl (fields : CtrlFields)
  | freq (f : BitVec 14)
  | phase (p : BitVec 12)
  | tag10 (u : BitVec 14)
  | notEmitted (reason : NotEmitted)
  deriving DecidableEq, Repr

/-- `classify(w)`, by the two tag bits alone (R160, 90_conflicts.md C1). -/
def classify (w : Word) : WireClass :=
  match w.getLsbD 15, w.getLsbD 14 with
  | false, false => .ctrl
  | false, true => .freq
  | true, false => .tag10
  | true, true => .phase

/-- `decodeCtrl(w)` (R161): the reserved bits are looked at before the shape bits. The spec defines it for words of class CTRL;
that it is total here is a DESIGN CHOICE (log entry 21): a word of another class has a tag bit set and is refused. -/
def decodeCtrl (w : Word) : Except NotEmitted CtrlFields :=
  if w &&& ~~~Config.cwMask ≠ 0 then .error .reservedBitsSet
  else
    match w.getLsbD Config.bitShapeHi, w.getLsbD Config.bitShapeLo with
    | true, true => .error .unreachableShape
    | false, false => .ok ⟨w.getLsbD Config.bitReset, w.getLsbD Config.bitHalf, .sine⟩
    | false, true => .ok ⟨w.getLsbD Config.bitReset, w.getLsbD Config.bitHalf, .triangle⟩
    | true, false => .ok ⟨w.getLsbD Config.bitReset, w.getLsbD Config.bitHalf, .square⟩

/-- `decodeFreq(w)` (R162). The spec defines it for words of class FREQ, and 92_eei_decisions.md D26 has it accept exactly the
emitted words; that it is total here, without a look at the tag, is a DESIGN CHOICE (log entry 21). What it answers for a word
of another class means nothing; `decodeWord` asks it about words of class FREQ only. -/
def decodeFreq (w : Word) : Except NotEmitted (BitVec 14) :=
  if Config.fmax < (w.extractLsb' 0 14).toNat then .error .aboveFmax else .ok (w.extractLsb' 0 14)

/-- `decodePhase(w)` (R163). The spec defines it for words of class PHASE, and 92_eei_decisions.md D26 has it accept exactly
the emitted words; that it is total here, without a look at the tag, is a DESIGN CHOICE (log entry 21). What it answers for a
word of another class means nothing; `decodeWord` asks it about words of class PHASE only. -/
def decodePhase (w : Word) : Except NotEmitted (BitVec 12) :=
  if w.getLsbD 13 || w.getLsbD 12 then .error .reservedBitsSet else .ok (w.extractLsb' 0 12)

/-- `decodeWord(w)`, total (R164). -/
def decodeWord (w : Word) : WireInfo :=
  match classify w with
  | .ctrl =>
    match decodeCtrl w with
    | .ok c => .ctrl c
    | .error r => .notEmitted r
  | .freq =>
    match decodeFreq w with
    | .ok f => .freq f
    | .error r => .notEmitted r
  | .phase =>
    match decodePhase w with
    | .ok p => .phase p
    | .error r => .notEmitted r
  | .tag10 => .tag10 (w.extractLsb' 0 14)

/-- The bits of `k`, if `b` (R161's `reset * 0x0100`). -/
def bitsIf (b : Bool) (k : Word) : Word := if b then k else 0

/-- The shape bits of a shape (R81). -/
def shapeBits : Shape → Word
  | .sine => 0
  | .triangle => Config.maskShapeLo
  | .square => Config.maskShapeHi

/-- `encodeCtrl(reset, half, shape)` (R161). -/
def encodeCtrl (c : CtrlFields) : Word :=
  bitsIf c.reset Config.maskReset ||| bitsIf c.half Config.maskHalf ||| shapeBits c.shape

/-- `F | 0x4000`, the inverse of decodeFreq on the magnitudes up to `FMAX` (R162, R165). -/
def encodeFreq (f : BitVec 14) : Word := f.zeroExtend 16 ||| Config.tagFreq

/-- `P | 0xC000`, the inverse of decodePhase (R163, R165). -/
def encodePhase (p : BitVec 12) : Word := p.zeroExtend 16 ||| Config.tagPhase

/-- The wire word of format CTRL with the given bits (R71), whether or not the block emits it. -/
def ctrlWord (half reset shapeHi shapeLo : Bool) : Word :=
  bitsIf half Config.maskHalf ||| bitsIf reset Config.maskReset |||
    bitsIf shapeHi Config.maskShapeHi ||| bitsIf shapeLo Config.maskShapeLo

/-- The wire word of format FREQ with magnitude `f` (R72). -/
def freqFormat (f : BitVec 14) : Word := (0b01#2 ++ f : BitVec 16)

/-- The wire word of format PHASE with magnitude `p` (R73). -/
def phaseFormat (p : BitVec 12) : Word := (0b1100#4 ++ p : BitVec 16)

/-- The wire word of tag `10` with the other bits `u` (R74). -/
def tag10Format (u : BitVec 14) : Word := (0b10#2 ++ u : BitVec 16)

/-- The wire row a word belongs to. A word no row matches has a reserved bit set (R161, R163). -/
def decodeWireRow (w : Word) : Except NotEmitted Instr :=
  if rowHits rowCtrl w then
    .ok (.ctrl (w.getLsbD Config.bitHalf) (w.getLsbD Config.bitReset) (w.getLsbD Config.bitShapeHi)
      (w.getLsbD Config.bitShapeLo))
  else if rowHits rowFreq w then .ok (.freq (w.extractLsb' 0 14))
  else if rowHits rowPhase w then .ok (.phase (w.extractLsb' 0 12))
  else if rowHits rowTag10 w then .ok (.tag10 (w.extractLsb' 0 14))
  else .error .reservedBitsSet

/-! ## Command words -/

/-- `cmd[34:32]` (R87). -/
def cmdOp (c : CmdWord) : BitVec 3 := c.extractLsb' 32 3
/-- `cmd[31:16]` (R87). -/
def cmdA (c : CmdWord) : Word := c.extractLsb' 16 16
/-- `cmd[15:0]` (R87). -/
def cmdB (c : CmdWord) : Word := c.extractLsb' 0 16

/-- The command word with the given fields (R87). -/
def cmdWord (op : BitVec 3) (a b : Word) : CmdWord := (op ++ a ++ b : BitVec 35)

/-- Why a command word is reserved, the three cases of R89. -/
inductive Reserved where
  /-- `op = 7` -/
  | opSeven
  /-- `op = 0` and `EXPOSE_XFER` is false -/
  | xferNotExposed
  /-- an operand bit the table shows as `0` is 1 -/
  | operandBits
  deriving DecidableEq, Repr

/-- `decodeCmd(c)` of R168, total: the operation, or why the word is `Reserved`. -/
def decodeCmd (exposeXfer : Bool) (c : CmdWord) : Except Reserved Instr :=
  if rowHits rowXfer c then
    if exposeXfer then .ok (.xfer (cmdA c) (cmdB c)) else .error .xferNotExposed
  else if rowHits rowSetReset c then .ok (.setReset ((cmdA c).getLsbD 0))
  else if rowHits rowSetRange c then .ok (.setRange ((cmdA c).getLsbD 0))
  else if rowHits rowSetFreq c then .ok (.setFreq (cmdA c).toNat)
  else if rowHits rowSetAxisFreq c then .ok (.setAxisFreq (cmdA c).toNat (cmdB c).toNat)
  else if rowHits rowSetPhase c then .ok (.setPhase (cmdA c).toNat)
  else if rowHits rowSetShape c then .ok (.setShape ((cmdA c).extractLsb' 0 2).toNat)
  else if cmdOp c = 7 then .error .opSeven
  else .error .operandBits

/-- The command row a word belongs to: decodeCmd, and the table's row RESERVED7 as an instruction of its own. -/
def decodeCommandRow (exposeXfer : Bool) (c : CmdWord) : Except Reserved Instr :=
  if rowHits rowReserved7 c then .ok (.reserved7 (c.extractLsb' 0 32)) else decodeCmd exposeXfer c

/-! ## Both spaces -/

/-- An encoded instruction: a command word or a wire word (R92's two spaces). -/
inductive Encoded where
  | command (c : CmdWord)
  | wire (w : Word)
  deriving DecidableEq, Repr

/-- Why the decoder rejects a word. -/
inductive Rejected where
  /-- a reserved command word (R89) -/
  | reserved (r : Reserved)
  /-- a wire word that matches no wire row -/
  | notEmitted (r : NotEmitted)
  deriving DecidableEq, Repr

/-- The instruction an encoded word stands for. -/
def decode (exposeXfer : Bool) : Encoded → Except Rejected Instr
  | .command c =>
    match decodeCommandRow exposeXfer c with
    | .ok i => .ok i
    | .error r => .error (.reserved r)
  | .wire w =>
    match decodeWireRow w with
    | .ok i => .ok i
    | .error r => .error (.notEmitted r)

/-- A boolean operand in `a[0]`, the other bits 0 (R80, R88). -/
def boolOperand (b : Bool) : Word := if b then 1 else 0

/-- The word of an instruction (R71 to R74, R88). -/
def encode : Instr → Encoded
  | .xfer a b => .command (cmdWord 0 a b)
  | .setReset en => .command (cmdWord 1 (boolOperand en) 0)
  | .setRange hi => .command (cmdWord 2 (boolOperand hi) 0)
  | .setFreq v => .command (cmdWord 3 (BitVec.ofNat 16 v) 0)
  | .setAxisFreq x y => .command (cmdWord 4 (BitVec.ofNat 16 x) (BitVec.ofNat 16 y))
  | .setPhase v => .command (cmdWord 5 (BitVec.ofNat 16 v) 0)
  | .setShape code => .command (cmdWord 6 (BitVec.ofNat 16 code) 0)
  | .reserved7 u => .command (cmdWord 7 (u.extractLsb' 16 16) (u.extractLsb' 0 16))
  | .ctrl half reset shapeHi shapeLo => .wire (ctrlWord half reset shapeHi shapeLo)
  | .freq f => .wire (freqFormat f)
  | .phase p => .wire (phaseFormat p)
  | .tag10 u => .wire (tag10Format u)

/-- The encoded word a row of the table gives as the number `w`: the table's 16-bit rows are wire words, its
35-bit rows (40 bits in whole bytes) command words. A number that does not fit has no word. -/
def tableWord (nbits w : Nat) : Option Encoded :=
  if nbits ≤ 16 then
    if w < 2 ^ 16 then some (.wire (BitVec.ofNat 16 w)) else none
  else
    if w < 2 ^ 35 then some (.command (BitVec.ofNat 35 w)) else none

/-- The instruction the decoder reads from a row's word. The row XFER is "decoded only when parameter
EXPOSE_XFER is true" (spec/opcode_table.json), so it is read with the parameter true (log entry 5). -/
def decodeTableWord (nbits w : Nat) : Option Instr :=
  match tableWord nbits w with
  | none => none
  | some e =>
    match decode true e with
    | .ok i => some i
    | .error _ => none

/-! ## Listings (30_encoding.md R90) -/

/-- Booleans are written `0` (false) and `1` (true) (R90). -/
def boolText (b : Bool) : String := if b then "1" else "0"

/-- An operation as a line of a listing: the mnemonic, then comma-separated operands, numbers in C notation (R90), written in
decimal. What is no operation of 00_scope.md R3 has no listing. -/
def listing : Instr → Option String
  | .xfer a b => some ("XFER " ++ a.toNat.repr ++ ", " ++ b.toNat.repr)
  | .setReset en => some ("SETRESET " ++ boolText en)
  | .setRange hi => some ("SETRANGE " ++ boolText hi)
  | .setFreq v => some ("SETFREQ " ++ v.repr)
  | .setAxisFreq x y => some ("SETAXISFREQ " ++ x.repr ++ ", " ++ y.repr)
  | .setPhase v => some ("SETPHASE " ++ v.repr)
  | .setShape code => some ("SETSHAPE " ++ code.repr)
  | .reserved7 _ => none
  | .ctrl _ _ _ _ => none
  | .freq _ => none
  | .phase _ => none
  | .tag10 _ => none

end Sys2Proof
end

