-- ==== Sys2Proof/Machine/State.lean ====
section
/-! DEFINITION. The state of the block (10_state.md R10), the host's moves, the outcomes' names, and reset (R25). -/

namespace Sys2Proof.Machine

/-- `PHASE`: the micro-step the shift engine is at (R19). -/
inductive EnginePhase where
  | idle | start | data | clkHi | clkLo | stop | park
  deriving DecidableEq, Repr

/-- A micro-step on the lines (20_memory.md R46). -/
inductive LineEvent where
  /-- `FSYNC <- level` -/
  | fsync (level : Bool)
  /-- `SCLK <- level` -/
  | sclk (level : Bool)
  /-- `DATA(a, b)`: `SDATA_A <- a` and `SDATA_B <- b` together -/
  | data (a b : Bool)
  deriving DecidableEq, Repr

/-- The line state: the levels of the four output lines, 1 = high (R22, R46). -/
structure Lines where
  /-- `FSYNC` -/
  fsync : Bool
  /-- `SCLK` -/
  sclk : Bool
  /-- `SDATA_A` -/
  sdataA : Bool
  /-- `SDATA_B` -/
  sdataB : Bool
  deriving DecidableEq, Repr

/-- The reference receiver of 20_memory.md R50: its two bit buffers, first sampled bit first, and the two receive
logs, oldest word first (R23). -/
structure Receiver where
  /-- `BA` -/
  ba : List Bool
  /-- `BB` -/
  bb : List Bool
  /-- `RXA` -/
  rxA : List Word
  /-- `RXB` -/
  rxB : List Word
  deriving DecidableEq, Repr

/-- The input pins of the command port at one tick of `clk` (30_encoding.md R85). -/
structure PortIn where
  rst : Bool
  cmdValid : Bool
  cmd : CmdWord
  deriving DecidableEq, Repr

/-- A move of the world outside the block (log entry 4). -/
inductive HostMove where
  /-- present a command word and keep it until it is accepted; the operation then runs to completion (R56) -/
  | command (c : CmdWord)
  /-- one tick of `clk` with these pins (R85, R230) -/
  | tick (pins : PortIn)
  /-- hand a wire word to the decoder of 44_decode.md -/
  | wire (w : Word)
  /-- another agent drives a line, which the environment must never do (70_reset_and_hazards.md R226) -/
  | foreign (e : LineEvent)
  deriving DecidableEq, Repr

/-- The model-level faults of 60_exceptions.md section 2. A fault stops the run (R190): as an outcome it leaves no next
state, and recorded in `State.stopped` it is the outcome of everything that is tried after it (R185). -/
inductive Fault where
  /-- Raised as an outcome by SETSHAPE for a code outside 0, 1, 2 (R182). Safe: the spec gives the operation no effect
  (R153). -/
  | illegalShape (code : Nat)
  /-- The reference receiver saw FSYNC rise after `n` sampled bits, `n` not 16 (R183). Recorded by `rst` in an open frame,
  which resets the block (70_reset_and_hazards.md R210, R224; log entry 14), and the outcome of every later step. Raised as an
  outcome at once where the engine closes such a frame, which it does in no reachable state (R52). Safe: the run is stopped. -/
  | truncatedFrame (n : Nat)
  /-- Raised as an outcome by the host move `foreign` (R184). Safe: every statement about the wire is void after it. -/
  | pinInterference
  deriving DecidableEq, Repr

/-- The complete state (R10), and the model's own fields `params`, `host` and `answer`. -/
structure State where
  /-- `CW`, the control word (R11) -/
  cw : Word
  /-- `FX` (R15) -/
  fx : Word
  /-- `FY` (R15) -/
  fy : Word
  /-- `PH` (R16) -/
  ph : BitVec 12
  /-- `SRA` (R18) -/
  sra : Word
  /-- `SRB` (R18) -/
  srb : Word
  /-- `CNT` (R19) -/
  cnt : BitVec 5
  /-- `PHASE` (R19) -/
  phase : EnginePhase
  /-- `BUSY` (R21) -/
  busy : Bool
  /-- `FSYNC`, `SCLK`, `SDATA_A`, `SDATA_B` (R22) -/
  lines : Lines
  /-- `TRACE` (R23) -/
  trace : List LineEvent
  /-- `RXA`, `RXB` (R23) and the buffers of the walk of R50 -/
  rx : Receiver
  /-- the run is marked refused (60_exceptions.md R186) -/
  runRefused : Bool
  /-- the fault recorded in the run, which has stopped it (60_exceptions.md R183, R185, R190) -/
  stopped : Option Fault
  /-- the open parameters (00_scope.md R7); no step changes them (log entry 1) -/
  params : Config.Params
  /-- the host's coming moves (log entry 4) -/
  host : List HostMove
  /-- what decodeWord returned for the last wire word handed to it (log entry 6) -/
  answer : Option WireInfo
  deriving DecidableEq, Repr

/-- Why an instruction has no meaning. -/
inductive Refusal where
  /-- Raised by `exec` for an instruction not modelled yet; no instruction is. Safe. -/
  | notModelled (mnemonic : String)
  deriving DecidableEq, Repr

/-- The line state after reset (R25). -/
def resetLines (p : Config.Params) : Lines :=
  { fsync := true, sclk := true, sdataA := p.sdataResetA, sdataB := p.sdataResetB }

/-- The receiver before the first micro-step (R25, R50). -/
def emptyReceiver : Receiver := { ba := [], bb := [], rxA := [], rxB := [] }

/-- The state after reset, for any value of the open parameters (R25). -/
def State.resetWith (p : Config.Params) : State :=
  { cw := 0x0000
    fx := p.freqReset
    fy := p.freqReset
    ph := p.phaseReset
    sra := 0x0000
    srb := 0x0000
    cnt := 0
    phase := .idle
    busy := false
    lines := resetLines p
    trace := []
    rx := emptyReceiver
    runRefused := false
    stopped := none
    params := p
    host := []
    answer := none }

/-- The machine right after reset, with the parameters of `Config.defaults` and no host move. -/
def State.reset : State := State.resetWith Config.defaults

end Sys2Proof.Machine
end

