-- ==== Sys2Proof/Machine/Flags.lean ====
section
/-! DEFINITION. The block has no condition codes and no error flags (10_state.md R21). This file holds its one
status bit as the port shows it, and the field updates of the control word (30_encoding.md R79). -/

namespace Sys2Proof.Machine

/-- `cmd_ready = not BUSY` (R21, R85). -/
def cmdReady (s : State) : Bool := !s.busy

/-- Set the bits of a mask: `CW | mask` (R79). -/
def setMask (cw mask : Word) : Word := cw ||| mask

/-- Clear the bits of a mask: `CW & ~mask` (R79). -/
def clearMask (cw mask : Word) : Word := cw &&& ~~~mask

/-- Set the mask's bits when the boolean operand is true, clear them when it is false (R80). -/
def putMask (b : Bool) (cw mask : Word) : Word := if b then setMask cw mask else clearMask cw mask

/-- The control word after SETSHAPE: both shape bits are rewritten, no other bit is touched (R81, R150). -/
def shapeUpdate (sh : Shape) (cw : Word) : Word :=
  match sh with
  | .sine => clearMask cw (Config.maskShapeHi ||| Config.maskShapeLo)
  | .triangle => setMask (clearMask cw Config.maskShapeHi) Config.maskShapeLo
  | .square => setMask (clearMask cw Config.maskShapeLo) Config.maskShapeHi

end Sys2Proof.Machine
end

