-- ==== Sys2Proof/Machine/Operands.lean ====
section
/-! DEFINITION. Operand assembly (30_encoding.md R75 to R78): clamping, then tagging. -/

namespace Sys2Proof.Machine

/-- `clampF(v) = min(v, FMAX)`, on the whole operand before any truncation (R75). -/
def clampF (v : Nat) : Nat := min v Config.fmax

/-- `clampP(v) = min(v, PMAX)` (R75). -/
def clampP (v : Nat) : Nat := min v Config.pmax

/-- `freqWord(v) = clampF(v) | 0x4000` (R77). -/
def freqWord (v : Nat) : Word := BitVec.ofNat 16 (clampF v) ||| Config.tagFreq

/-- The word of chip A, the X axis, in SETPHASE: phase zero, tagged, whatever the operand (R78). -/
def phaseWordX : Word := Config.tagPhase

/-- `phaseWordY(v) = clampP(v) | 0xC000`, the word of chip B, the Y axis (R78). -/
def phaseWordY (v : Nat) : Word := BitVec.ofNat 16 (clampP v) ||| Config.tagPhase

/-- The magnitude SETPHASE stores in PH: clamped and without the tag (R16, R140). -/
def phaseStored (v : Nat) : BitVec 12 := BitVec.ofNat 12 (clampP v)

end Sys2Proof.Machine
end

