-- ==== Sys2Proof/Machine/Receiver.lean ====
section
/-! DEFINITION. What a micro-step does to the line state, the reference receiver (20_memory.md R46, R48, R50), and
what can be read from the receive logs (44_decode.md R167). -/

namespace Sys2Proof.Machine

/-- The line state after a micro-step (R46). -/
def applyEvent (e : LineEvent) (l : Lines) : Lines :=
  match e with
  | .fsync level => { l with fsync := level }
  | .sclk level => { l with sclk := level }
  | .data a b => { l with sdataA := a, sdataB := b }

/-- `word([b15, ..., b0])`: the first bit sampled is the most significant (R50). -/
def wordOfBits (bits : List Bool) : Word :=
  bits.foldl (fun acc b => (acc <<< 1) ||| (if b then 1 else 0)) 0

/-- The frame opens (R50). -/
def frameOpens (before after : Lines) : Bool := before.fsync && !after.fsync

/-- The sampling edge: SCLK falls while FSYNC is low (R48; UNVERIFIED against a chip, log entry 8). -/
def samplingEdge (before after : Lines) : Bool :=
  !before.fsync && !after.fsync && before.sclk && !after.sclk

/-- The frame closes (R50). -/
def frameCloses (before after : Lines) : Bool := !before.fsync && after.fsync

/-- One round of the loop of R50. The error is the bit count of a frame that is not 16 bits long (R52, R183). -/
def observe (before after : Lines) (r : Receiver) : Except Nat Receiver :=
  if frameOpens before after then .ok { r with ba := [], bb := [] }
  else if samplingEdge before after then
    .ok { r with ba := r.ba ++ [after.sdataA], bb := r.bb ++ [after.sdataB] }
  else if frameCloses before after then
    if r.ba.length = Config.wordBits then
      .ok { r with rxA := r.rxA ++ [wordOfBits r.ba], rxB := r.rxB ++ [wordOfBits r.bb] }
    else .error r.ba.length
  else .ok r

/-- The whole walk of R50 over a list of micro-steps. -/
def walk : List LineEvent → Lines → Receiver → Except Nat (Lines × Receiver)
  | [], l, r => .ok (l, r)
  | e :: es, l, r =>
    match observe l (applyEvent e l) r with
    | .ok r' => walk es (applyEvent e l) r'
    | .error n => .error n

/-! ## Reading a receive log -/

/-- The last word of a class in a log (R167). -/
def lastOfClass (k : WireClass) (log : List Word) : Option Word :=
  (log.filter (fun w => classify w == k)).getLast?

/-- Which half of the frequency accumulator a FREQ word at position `i` was for: the half field of the last CTRL word
before it in the same log, unknown if there is none (R167, R41). `some true` is the upper half. -/
def halfAt (log : List Word) (i : Nat) : Option Bool :=
  (lastOfClass .ctrl (log.take i)).map (fun w => w.getLsbD Config.bitHalf)

end Sys2Proof.Machine
end

