-- ==== Sys2Proof/Machine/Ops.lean ====
section
/-! DEFINITION. The shared operations: driving a line, the shift engine at both levels, presenting a command.
The spec has no exception entry and no return from one (60_exceptions.md R190, R191), so there is no operation
for either. -/

namespace Sys2Proof.Machine

/-- Continue after an outcome; a fault or a refusal ends the run (R185). -/
def andThen (o : Host.Outcome State Fault Refusal) (f : State → Host.Outcome State Fault Refusal) :
    Host.Outcome State Fault Refusal :=
  match o with
  | .next s => f s
  | .fault r => .fault r
  | .refused r => .refused r

/-- A recorded fault has stopped the run: whatever is tried after it ends in that fault, and not even `rst` clears it (R185,
R190). -/
def unlessStopped (s : State) (o : Host.Outcome State Fault Refusal) : Host.Outcome State Fault Refusal :=
  match s.stopped with
  | none => o
  | some f => .fault f

/-! ## Updates of the shadow registers and of the model's own fields -/

/-- `CW <- w`. -/
def setCw (w : Word) (s : State) : State := { s with cw := w }

/-- `FX <- w ; FY <- w`, always together (R15). -/
def setFxFy (w : Word) (s : State) : State := { s with fx := w, fy := w }

/-- `PH <- p`. -/
def setPh (p : BitVec 12) (s : State) : State := { s with ph := p }

/-- Mark the run refused (R186). Nothing else changes. -/
def markRefused (s : State) : State := { s with runRefused := true }

/-- Record the fault that stops the run (R185, R190). Nothing else changes. -/
def recordFault (f : Fault) (s : State) : State := { s with stopped := some f }

/-- Keep the decoder's answer (log entry 6). Nothing else changes. -/
def recordAnswer (info : WireInfo) (s : State) : State := { s with answer := some info }

/-- The moves left to the host. -/
def setHost (moves : List HostMove) (s : State) : State := { s with host := moves }

/-! ## The engine -/

/-- One micro-step on the lines: the line state, TRACE and the reference receiver move together (R46, R50). -/
def drive (e : LineEvent) (s : State) : Host.Outcome State Fault Refusal :=
  match observe s.lines (applyEvent e s.lines) s.rx with
  | .ok r => .next { s with lines := applyEvent e s.lines, trace := s.trace ++ [e], rx := r }
  | .error n => .fault (.truncatedFrame n)

/-- Acceptance: BUSY rises, the shift registers and the bit counter are loaded (R86, R108 row IDLE). -/
def load (a b : Word) (s : State) : State :=
  { s with busy := true, sra := a, srb := b, cnt := BitVec.ofNat 5 Config.wordBits, phase := .start }

/-- The end of a bit period: shift both registers, count the bit (R100). -/
def shiftBit (s : State) : State :=
  { s with sra := s.sra <<< 1, srb := s.srb <<< 1, cnt := s.cnt - 1 }

/-- The engine at the micro-step `p`. -/
def setPhase (p : EnginePhase) (s : State) : State := { s with phase := p }

/-- The transfer is over: BUSY falls (R108 row PARK). -/
def release (s : State) : State := { s with busy := false, phase := .idle }

/-- One bit period: data, clock set, clock clear, shift (R102). -/
def bitPeriod (s : State) : Host.Outcome State Fault Refusal :=
  andThen (drive (.data s.sra.msb s.srb.msb) s) fun s1 =>
  andThen (drive (.sclk true) s1) fun s2 =>
  andThen (drive (.sclk false) s2) fun s3 =>
  .next (shiftBit s3)

/-- `n` bit periods: the loop of R100, whose path no operand can change (R104). -/
def bitPeriods : Nat → State → Host.Outcome State Fault Refusal
  | 0, s => .next s
  | n + 1, s => andThen (bitPeriod s) (bitPeriods n)

/-- `XFER(a, b)`: the pseudocode of R100, from acceptance to the fall of BUSY. -/
def transfer (a b : Word) (s : State) : Host.Outcome State Fault Refusal :=
  andThen (drive (.fsync false) (load a b s)) fun s1 =>
  andThen (bitPeriods Config.wordBits s1) fun s2 =>
  andThen (drive (.fsync true) s2) fun s3 =>
  andThen (drive (.sclk true) s3) fun s4 =>
  .next (release s4)

/-- One micro-step of the engine: the rows of R108 but for acceptance. CNT is 1 to 16 in CLKLO in every reachable
state; the last row's reading of CNT = 0 is DEDUCED (log entry 15). -/
def microStep (s : State) : Host.Outcome State Fault Refusal :=
  match s.phase with
  | .idle => .next s
  | .start => andThen (drive (.fsync false) s) fun t => .next (setPhase .data t)
  | .data => andThen (drive (.data s.sra.msb s.srb.msb) s) fun t => .next (setPhase .clkHi t)
  | .clkHi => andThen (drive (.sclk true) s) fun t => .next (setPhase .clkLo t)
  | .clkLo => andThen (drive (.sclk false) s) fun t =>
      if 1 < s.cnt.toNat then .next (setPhase .data (shiftBit t))
      else .next (setPhase .stop { shiftBit t with cnt := 0 })
  | .stop => andThen (drive (.fsync true) s) fun t => .next (setPhase .park t)
  | .park => andThen (drive (.sclk true) s) fun t => .next (release t)

/-! ## Commands -/

/-- What an instruction asks for once it is accepted: the words to send after the shadow update (R57), or no
transfer, or a fault. -/
inductive Issue where
  | send (s : State) (a b : Word)
  | done (s : State)
  | stop (f : Fault)
  deriving DecidableEq, Repr

/-- Run an accepted instruction to completion (R54, R56). -/
def complete : Issue → Host.Outcome State Fault Refusal
  | .send s a b => transfer a b s
  | .done s => .next s
  | .stop f => .fault f

/-- Accept an instruction at a tick: the engine is loaded and the transfer starts (R86, R108). -/
def accept : Issue → Host.Outcome State Fault Refusal
  | .send s a b => .next (load a b s)
  | .done s => .next s
  | .stop f => .fault f

/-- Present a command. While BUSY it is held: it is not accepted and the transfer in progress goes on by one
micro-step (R86, R187). -/
def present (k : State → Issue) (s : State) : Host.Outcome State Fault Refusal :=
  unlessStopped s (if cmdReady s then complete (k s) else microStep s)

end Sys2Proof.Machine
end

