-- ==== Sys2Proof/Machine/Frequency.lean ====
section
/-! DEFINITION. SETFREQ, SETAXISFREQ and SETPHASE (42_frequency_phase_commands.md). Chip A is the X axis and chip B
the Y axis (92_eei_decisions.md D11; log entry 9). -/

namespace Sys2Proof.Machine

/-- SETFREQ's shadow update and words (R130). -/
def issueSetFreq (v : Nat) (s : State) : Issue := .send (setFxFy (freqWord v) s) (freqWord v) (freqWord v)

/-- SETFREQ (R130). -/
def execSetFreq (v : Nat) (s : State) : Host.Outcome State Fault Refusal := present (issueSetFreq v) s

/-- SETAXISFREQ's words; no shadow is updated (R135, R136; log entry 11). -/
def issueSetAxisFreq (x y : Nat) (s : State) : Issue := .send s (freqWord x) (freqWord y)

/-- SETAXISFREQ (R135). -/
def execSetAxisFreq (x y : Nat) (s : State) : Host.Outcome State Fault Refusal := present (issueSetAxisFreq x y) s

/-- SETPHASE's shadow update and words (R140, R141). -/
def issueSetPhase (v : Nat) (s : State) : Issue := .send (setPh (phaseStored v) s) phaseWordX (phaseWordY v)

/-- SETPHASE (R140). -/
def execSetPhase (v : Nat) (s : State) : Host.Outcome State Fault Refusal := present (issueSetPhase v) s

end Sys2Proof.Machine
end

