-- ==== Sys2Proof/Machine/ReservedCommand.lean ====
section
/-! DEFINITION. Reserved command words (30_encoding.md R89, 60_exceptions.md R186). -/

namespace Sys2Proof.Machine

/-- A reserved command is not accepted: no register changes, no line moves, BUSY stays 0, TRACE is unchanged. The run
is marked refused (R186; log entry 7). -/
def issueReserved (s : State) : Issue := .done (markRefused s)

/-- RESERVED7, a command word with `op = 7`, whatever its other bits (R89). -/
def issueReserved7 (_u : BitVec 32) (s : State) : Issue := issueReserved s

/-- RESERVED7 (R89, R186). -/
def execReserved7 (u : BitVec 32) (s : State) : Host.Outcome State Fault Refusal := present (issueReserved7 u) s

end Sys2Proof.Machine
end

