-- ==== Sys2Proof/Machine/Control.lean ====
section
/-! DEFINITION. SETRESET and SETRANGE (41_control_word_commands.md). -/

namespace Sys2Proof.Machine

/-- Store a new control word and send it to both chips (R11, R79). -/
def issueControl (w : Word) (s : State) : Issue := .send (setCw w s) w w

/-- SETRESET's shadow update and words (R120). -/
def issueSetReset (en : Bool) (s : State) : Issue := issueControl (putMask en s.cw Config.maskReset) s

/-- SETRESET (R120). -/
def execSetReset (en : Bool) (s : State) : Host.Outcome State Fault Refusal := present (issueSetReset en) s

/-- SETRANGE's shadow update and words (R124). -/
def issueSetRange (hi : Bool) (s : State) : Issue := issueControl (putMask hi s.cw Config.maskHalf) s

/-- SETRANGE (R124). -/
def execSetRange (hi : Bool) (s : State) : Host.Outcome State Fault Refusal := present (issueSetRange hi) s

end Sys2Proof.Machine
end

