-- ==== Sys2Proof/Machine/Shape.lean ====
section
/-! DEFINITION. SETSHAPE (43_shape_command.md). -/

namespace Sys2Proof.Machine

/-- SETSHAPE's shadow update and words (R150); a code outside 0, 1, 2 faults and nothing else happens (R153). -/
def issueSetShape (code : Nat) (s : State) : Issue :=
  match shapeOfCode code with
  | some sh => issueControl (shapeUpdate sh s.cw) s
  | none => .stop (.illegalShape code)

/-- SETSHAPE (R150). -/
def execSetShape (code : Nat) (s : State) : Host.Outcome State Fault Refusal := present (issueSetShape code) s

end Sys2Proof.Machine
end

