-- ==== Sys2Proof/Machine/Transfer.lean ====
section
/-! DEFINITION. XFER (40_transfer.md). -/

namespace Sys2Proof.Machine

/-- XFER sends its two operands as they are, checks nothing and touches no shadow (R101, R107). -/
def issueXfer (a b : Word) (s : State) : Issue := .send s a b

/-- XFER (R100). -/
def execXfer (a b : Word) (s : State) : Host.Outcome State Fault Refusal := present (issueXfer a b) s

end Sys2Proof.Machine
end

