-- ==== Sys2Proof/Machine/Wire.lean ====
section
/-! DEFINITION. The wire rows CTRL, FREQ, PHASE and TAG10. Their rules are the decoders of 44_decode.md, pure
functions that "read their argument and write no state": the machine keeps the answer and changes nothing else
(log entry 6). -/

namespace Sys2Proof.Machine

/-- Hand a wire word to decodeWord (R164). -/
def readWord (w : Word) (s : State) : Host.Outcome State Fault Refusal :=
  unlessStopped s (.next (recordAnswer (decodeWord w) s))

/-- CTRL: decodeCtrl of the word (R161). -/
def execCtrl (half reset shapeHi shapeLo : Bool) (s : State) : Host.Outcome State Fault Refusal :=
  readWord (ctrlWord half reset shapeHi shapeLo) s

/-- FREQ: decodeFreq of the word (R162). -/
def execFreq (f : BitVec 14) (s : State) : Host.Outcome State Fault Refusal := readWord (freqFormat f) s

/-- PHASE: decodePhase of the word (R163). -/
def execPhase (p : BitVec 12) (s : State) : Host.Outcome State Fault Refusal := readWord (phaseFormat p) s

/-- TAG10: classified and decoded no further (R160, R164, R74). -/
def execTag10 (u : BitVec 14) (s : State) : Host.Outcome State Fault Refusal := readWord (tag10Format u) s

end Sys2Proof.Machine
end

