-- ==== Sys2Proof/Machine/Port.lean ====
section
/-! DEFINITION. The command port, one tick of `clk` at a time (30_encoding.md R85, R86; 40_transfer.md R108), and
the input `rst` (70_reset_and_hazards.md R210, R224). -/

namespace Sys2Proof.Machine

/-- What each instruction asks for once it is accepted. The wire rows are no commands; their answer is recorded. -/
def issue (i : Instr) (s : State) : Issue :=
  match i with
  | .xfer a b => issueXfer a b s
  | .setReset en => issueSetReset en s
  | .setRange hi => issueSetRange hi s
  | .setFreq v => issueSetFreq v s
  | .setAxisFreq x y => issueSetAxisFreq x y s
  | .setPhase v => issueSetPhase v s
  | .setShape code => issueSetShape code s
  | .reserved7 u => issueReserved7 u s
  | .ctrl half reset shapeHi shapeLo => .done (recordAnswer (decodeWord (ctrlWord half reset shapeHi shapeLo)) s)
  | .freq f => .done (recordAnswer (decodeWord (freqFormat f)) s)
  | .phase p => .done (recordAnswer (decodeWord (phaseFormat p)) s)
  | .tag10 u => .done (recordAnswer (decodeWord (tag10Format u)) s)

/-- A command word at a tick where it is valid and the block is ready (R86, R89). -/
def acceptTick (c : CmdWord) (s : State) : Host.Outcome State Fault Refusal :=
  match decodeCommandRow s.params.exposeXfer c with
  | .ok i => accept (issue i s)
  | .error _ => accept (issueReserved s)

/-- The receiver's verdict on `rst`, which drives the lines to their reset levels: an open frame closes (R224). -/
def rstVerdict (s : State) : Except Nat Receiver := observe s.lines (resetLines s.params) s.rx

/-- The state after `rst`: every element takes its reset value (R210, R25). What is not the block's stays: the
parameters, the host's moves, the refused mark, the recorded fault and the last answer (log entry 14). -/
def afterRst (s : State) : State :=
  { State.resetWith s.params with
    runRefused := s.runRefused, stopped := s.stopped, host := s.host, answer := s.answer }

/-- A tick with `rst = 1`: everything is reset, whatever else is happening (R210). In the middle of a frame the receiver's
fault is recorded with it (R224), and the run is stopped (R190). -/
def rstTick (s : State) : Host.Outcome State Fault Refusal :=
  match rstVerdict s with
  | .ok _ => .next (afterRst s)
  | .error n => .next (recordFault (.truncatedFrame n) (afterRst s))

/-- One tick of `clk`: `rst` wins over everything (60_exceptions.md R189), then a command is accepted if the block is
ready, and otherwise the engine makes its micro-step (R108). A stopped run makes no tick (R190). -/
def tick (pins : PortIn) (s : State) : Host.Outcome State Fault Refusal :=
  unlessStopped s
    (if pins.rst then rstTick s
    else if pins.cmdValid && cmdReady s then acceptTick pins.cmd s
    else microStep s)

/-- Ticks in a row. -/
def ticks : List PortIn → State → Host.Outcome State Fault Refusal
  | [], s => .next s
  | pins :: rest, s => andThen (tick pins s) (ticks rest)

end Sys2Proof.Machine
end

