-- ==== Sys2Proof/Machine/Dispatch.lean ====
section
/-! DEFINITION. One arm for each constructor of Instr. -/

namespace Sys2Proof.Machine

def exec (i : Instr) (s : State) : Host.Outcome State Fault Refusal :=
  match i with
  | .xfer a b => Sys2Proof.Machine.execXfer a b s
  | .setReset en => Sys2Proof.Machine.execSetReset en s
  | .setRange hi => Sys2Proof.Machine.execSetRange hi s
  | .setFreq v => Sys2Proof.Machine.execSetFreq v s
  | .setAxisFreq x y => Sys2Proof.Machine.execSetAxisFreq x y s
  | .setPhase v => Sys2Proof.Machine.execSetPhase v s
  | .setShape code => Sys2Proof.Machine.execSetShape code s
  | .reserved7 u => Sys2Proof.Machine.execReserved7 u s
  | .ctrl half reset shapeHi shapeLo => Sys2Proof.Machine.execCtrl half reset shapeHi shapeLo s
  | .freq f => Sys2Proof.Machine.execFreq f s
  | .phase p => Sys2Proof.Machine.execPhase p s
  | .tag10 u => Sys2Proof.Machine.execTag10 u s

end Sys2Proof.Machine
end

