-- ==== Sys2Proof/Machine/Fetch.lean ====
section
/-! DEFINITION. Taking the host's next move. The block has no program counter and no instruction fetch (10_state.md
R20): a command comes from the command port and a wire word from whoever reads the wire. -/

namespace Sys2Proof.Machine

/-- A command word presented until it is accepted. It waits while the block is busy, on the host's list, and the
engine goes on (60_exceptions.md R187). When the block is ready it is decoded and run to completion (R56, R86); a
reserved word is dropped and marks the run (R186). -/
def runCommand (c : CmdWord) (rest : List HostMove) (s : State) : Host.Outcome State Fault Refusal :=
  if cmdReady s then
    match decodeCommandRow s.params.exposeXfer c with
    | .ok i => exec i (setHost rest s)
    | .error _ => complete (issueReserved (setHost rest s))
  else microStep s

/-- A wire word handed to the decoder (R164). A word that matches no row is answered too: decodeWord is total. -/
def runWire (w : Word) (s : State) : Host.Outcome State Fault Refusal :=
  match decodeWireRow w with
  | .ok i => exec i s
  | .error _ => readWord w s

/-- One move of the host. With no move left nothing is presented, and the engine finishes what it is doing (R108). -/
def runMove (moves : List HostMove) (s : State) : Host.Outcome State Fault Refusal :=
  match moves with
  | [] => microStep s
  | .command c :: rest => runCommand c rest s
  | .tick pins :: rest => tick pins (setHost rest s)
  | .wire w :: rest => runWire w (setHost rest s)
  | .foreign _ :: _ => .fault .pinInterference

/-- The host's next move, unless a recorded fault has stopped the run (60_exceptions.md R190). -/
def runMoves (moves : List HostMove) (s : State) : Host.Outcome State Fault Refusal := unlessStopped s (runMove moves s)

/-- The parameters under which a command word is decoded as its row of the table says: XFER's row needs EXPOSE_XFER
(log entry 5). -/
def exposeFor (c : CmdWord) (p : Config.Params) : Config.Params :=
  { p with exposeXfer := p.exposeXfer || cmdOp c == 0 }

/-- Present a word as the host's next move (log entry 4). -/
def placeWord (e : Option Encoded) (s : State) : State :=
  match e with
  | none => s
  | some (.wire w) => { s with host := .wire w :: s.host }
  | some (.command c) => { s with host := .command c :: s.host, params := exposeFor c s.params }

end Sys2Proof.Machine
end

