-- ==== Sys2Proof/Machine/Step.lean ====
section
/-! DEFINITION. One step of the machine: the host's next move. -/

namespace Sys2Proof.Machine

/-- One step: the next move of `State.host` (log entry 4). -/
def step (s : State) : Host.Outcome State Fault Refusal := runMoves s.host s

/-- The same state with the row's word presented as the host's next move (log entries 4 and 5). -/
def State.withFetchWord (s : State) (nbits w : Nat) : State := placeWord (tableWord nbits w) s

end Sys2Proof.Machine
end

