-- ==== Sys2Proof/Safety.lean ====
section
/-! DEFINITION. The terms claims are stated in: when a transfer may start, what it leaves, what words the block may
emit, and the invariants. -/

namespace Sys2Proof.Safety

open Sys2Proof.Machine

/-! ## Transfers -/

/-- The block can take a command: BUSY = 0 and the lines are idle (R100's precondition, R27), in a run that no fault has
stopped (R190). -/
def Ready (s : State) : Prop := s.busy = false ∧ s.lines.fsync = true ∧ s.lines.sclk = true ∧ s.stopped = none

/-- The micro-steps of the bit period that sends bit `j` of both words (R102). -/
def periodEvents (a b : Word) (j : Nat) : List LineEvent :=
  [.data (a.getLsbD j) (b.getLsbD j), .sclk true, .sclk false]

/-- The indexes of the bits in the order they are sent: 15 down to 0 (R43). -/
def bitOrder : List Nat := [15, 14, 13, 12, 11, 10, 9, 8, 7, 6, 5, 4, 3, 2, 1, 0]

/-- The micro-steps of a transfer, by indexing the words and without shift registers (R100, R106). -/
def transferEvents (a b : Word) : List LineEvent :=
  .fsync false :: (bitOrder.flatMap (periodEvents a b) ++ [.fsync true, .sclk true])

/-- A bit period in the other order of 90_conflicts.md C3: clock set, data, clock clear. -/
def altPeriodEvents (a b : Word) (j : Nat) : List LineEvent :=
  [.sclk true, .data (a.getLsbD j) (b.getLsbD j), .sclk false]

/-- A transfer in the order of C3 that the spec did not take. -/
def altTransferEvents (a b : Word) : List LineEvent :=
  .fsync false :: (bitOrder.flatMap (altPeriodEvents a b) ++ [.fsync true, .sclk true])

/-- The state after `XFER(a, b)`: lines, engine, trace and logs (R110). The shadows are not spoken of here. -/
structure Sent (s t : State) (a b : Word) : Prop where
  lines : t.lines = { fsync := true, sclk := true, sdataA := a.getLsbD 0, sdataB := b.getLsbD 0 }
  sra : t.sra = 0
  srb : t.srb = 0
  cnt : t.cnt = 0
  phase : t.phase = .idle
  busy : t.busy = false
  trace : t.trace = s.trace ++ transferEvents a b
  rxA : t.rx.rxA = s.rx.rxA ++ [a]
  rxB : t.rx.rxB = s.rx.rxB ++ [b]

/-- The fields that are not the block's: no operation of the block changes one of them. -/
structure SameSurroundings (s t : State) : Prop where
  params : t.params = s.params
  host : t.host = s.host
  answer : t.answer = s.answer
  runRefused : t.runRefused = s.runRefused
  stopped : t.stopped = s.stopped

/-- The shadow registers are unchanged. -/
structure SameShadows (s t : State) : Prop where
  cw : t.cw = s.cw
  fx : t.fx = s.fx
  fy : t.fy = s.fy
  ph : t.ph = s.ph

/-- The changes of SCLK inside the frame and after it, as line transitions (R103). -/
structure EdgeCount where
  fallsInFrame : Nat
  risesInFrame : Nat
  fallsOutside : Nat
  risesOutside : Nat
  frameOpens : Nat
  frameCloses : Nat
  deriving DecidableEq, Repr

/-- Count one more when the condition holds. -/
def countIf (b : Bool) (n : Nat) : Nat := if b then n + 1 else n

/-- The transitions a list of micro-steps makes from a line state. An SCLK transition is in the frame when FSYNC is low
before and after it. -/
def countEdges : List LineEvent → Lines → EdgeCount
  | [], _ => ⟨0, 0, 0, 0, 0, 0⟩
  | e :: es, l =>
    let m := applyEvent e l
    let c := countEdges es m
    let inside := !l.fsync && !m.fsync
    { fallsInFrame := countIf (inside && l.sclk && !m.sclk) c.fallsInFrame
      risesInFrame := countIf (inside && !l.sclk && m.sclk) c.risesInFrame
      fallsOutside := countIf (!inside && l.sclk && !m.sclk) c.fallsOutside
      risesOutside := countIf (!inside && !l.sclk && m.sclk) c.risesOutside
      frameOpens := countIf (l.fsync && !m.fsync) c.frameOpens
      frameCloses := countIf (!l.fsync && m.fsync) c.frameCloses }

/-! ## Words -/

/-- The twelve control words (R26). -/
def controlWords : List Word :=
  [0x0000, 0x0002, 0x0020, 0x0100, 0x0102, 0x0120, 0x1000, 0x1002, 0x1020, 0x1100, 0x1102, 0x1120]

/-- A control word the block can hold: no bit outside the mask (R13) and not both shape bits (R14). -/
def LegalControl (w : Word) : Prop :=
  w &&& ~~~Config.cwMask = 0 ∧ ¬(w.getLsbD Config.bitShapeHi = true ∧ w.getLsbD Config.bitShapeLo = true)

/-- A frequency word the block can send (R77). -/
def LegalFreq (w : Word) : Prop := 0x4000 ≤ w.toNat ∧ w.toNat ≤ 0x4000 + Config.fmax

/-- A phase word the block can send (R78). -/
def LegalPhase (w : Word) : Prop := 0xC000 ≤ w.toNat ∧ w.toNat ≤ 0xC000 + Config.pmax

/-- The set EMIT of R82. -/
def Emitted (w : Word) : Prop := w ∈ controlWords ∨ LegalFreq w ∨ LegalPhase w

/-! ## The round-trip laws of 44_decode.md R165 -/

/-- Law 1: decodeCtrl and encodeCtrl are inverse between the twelve control words and the twelve triples. -/
def CtrlRoundTrip : Prop :=
  (∀ c : CtrlFields, encodeCtrl c ∈ controlWords ∧ decodeCtrl (encodeCtrl c) = .ok c) ∧
  (∀ w ∈ controlWords, ∃ c, decodeCtrl w = .ok c ∧ encodeCtrl c = w)

/-- Law 2: the same of decodeFreq, between the emitted frequency words and the magnitudes up to `FMAX`. -/
def FreqRoundTrip : Prop :=
  (∀ f : BitVec 14, f.toNat ≤ Config.fmax → LegalFreq (encodeFreq f) ∧ decodeFreq (encodeFreq f) = .ok f) ∧
  (∀ w : Word, LegalFreq w → ∃ f, decodeFreq w = .ok f ∧ encodeFreq f = w)

/-- Law 3: the same of decodePhase, between the emitted phase words and the 12-bit magnitudes. -/
def PhaseRoundTrip : Prop :=
  (∀ p : BitVec 12, LegalPhase (encodePhase p) ∧ decodePhase (encodePhase p) = .ok p) ∧
  (∀ w : Word, LegalPhase w → ∃ p, decodePhase w = .ok p ∧ encodePhase p = w)

/-- Law 4: the three emitted sets are pairwise disjoint, because their tags differ, and decodeWord is injective on their
union. -/
def EmittedSetsApart : Prop :=
  (∀ w : Word, w ∈ controlWords → classify w = .ctrl) ∧ (∀ w : Word, LegalFreq w → classify w = .freq) ∧
  (∀ w : Word, LegalPhase w → classify w = .phase) ∧
  (∀ w : Word, ¬(w ∈ controlWords ∧ LegalFreq w) ∧ ¬(w ∈ controlWords ∧ LegalPhase w) ∧
    ¬(LegalFreq w ∧ LegalPhase w)) ∧
  (∀ w w' : Word, Emitted w → Emitted w' → decodeWord w = decodeWord w' → w = w')

/-- Law 5: the fields stand at the source's bits 8, 12, 5 and 1 and the tags are `0x4000` and `0xC000`, as in the source's
three end-to-end examples (95_test_vectors.md S7 to S9). -/
def FieldsPlaced : Prop :=
  (∀ c : CtrlFields, (encodeCtrl c).getLsbD 8 = c.reset ∧ (encodeCtrl c).getLsbD 12 = c.half ∧
    (encodeCtrl c).getLsbD 5 = decide (c.shape = .square) ∧ (encodeCtrl c).getLsbD 1 = decide (c.shape = .triangle)) ∧
  (∀ f : BitVec 14, (encodeFreq f).toNat = f.toNat + 0x4000) ∧
  (∀ p : BitVec 12, (encodePhase p).toNat = p.toNat + 0xC000) ∧
  freqWord 0x3000 = 0x6E23 ∧ phaseWordX = 0xC000 ∧ phaseWordY 0x1500 = 0xCFFF ∧ phaseStored 0x1500 = 0x0FFF ∧
  shapeUpdate .square 0x0000 = 0x0020 ∧ shapeUpdate .sine 0x0020 = 0x0000

/-! ## Invariants -/

/-- The control word is legal (R13, R14). -/
def ControlLegal (s : State) : Prop := LegalControl s.cw

/-- FX = FY, and the value is the reset parameter or a word SETFREQ stores (R26). -/
def FrequencyLegal (s : State) : Prop := s.fx = s.fy ∧ (s.fx = s.params.freqReset ∨ LegalFreq s.fx)

/-- The engine, the lines and the receiver's buffers agree at every micro-step (R19, R21, R27, R109): BUSY is
`PHASE != IDLE`, FSYNC is low from the step after START to STOP, and the receiver holds one bit for each period done. -/
def EngineAgrees (s : State) : Prop :=
  match s.phase with
  | .idle => s.busy = false ∧ s.lines.fsync = true ∧ s.lines.sclk = true ∧ s.cnt = 0
  | .start => s.busy = true ∧ s.lines.fsync = true ∧ s.lines.sclk = true ∧ s.cnt.toNat = 16
  | .data => s.busy = true ∧ s.lines.fsync = false ∧ 1 ≤ s.cnt.toNat ∧ s.cnt.toNat ≤ 16 ∧
      s.rx.ba.length + s.cnt.toNat = 16 ∧ s.rx.bb.length + s.cnt.toNat = 16
  | .clkHi => s.busy = true ∧ s.lines.fsync = false ∧ 1 ≤ s.cnt.toNat ∧ s.cnt.toNat ≤ 16 ∧
      s.rx.ba.length + s.cnt.toNat = 16 ∧ s.rx.bb.length + s.cnt.toNat = 16
  | .clkLo => s.busy = true ∧ s.lines.fsync = false ∧ s.lines.sclk = true ∧ 1 ≤ s.cnt.toNat ∧ s.cnt.toNat ≤ 16 ∧
      s.rx.ba.length + s.cnt.toNat = 16 ∧ s.rx.bb.length + s.cnt.toNat = 16
  | .stop => s.busy = true ∧ s.lines.fsync = false ∧ s.lines.sclk = false ∧ s.cnt = 0 ∧
      s.rx.ba.length = 16 ∧ s.rx.bb.length = 16
  | .park => s.busy = true ∧ s.lines.fsync = true ∧ s.cnt = 0

/-- The lines, the buffers and the logs are what the walk of R50 over TRACE from the reset line state gives. -/
def TraceAgrees (s : State) : Prop :=
  walk s.trace (resetLines s.params) emptyReceiver = .ok (s.lines, s.rx)

/-- CW and PH can be read back from the logs (R167). -/
def LogsShowShadows (s : State) : Prop :=
  (lastOfClass .ctrl s.rx.rxA).getD 0 = s.cw ∧
  (lastOfClass .ctrl s.rx.rxB).getD 0 = s.cw ∧
  (match lastOfClass .phase s.rx.rxB with
    | none => s.ph = s.params.phaseReset
    | some w => decodePhase w = .ok s.ph)

/-- The two words of one transfer, as R166 says: both emitted, of one class, equal if control words, and chip A's
phase word is always the phase-zero word. -/
def PairLegal (p : Word × Word) : Prop :=
  Emitted p.1 ∧ Emitted p.2 ∧ classify p.1 = classify p.2 ∧
  (classify p.1 = .ctrl → p.1 = p.2) ∧ (classify p.1 = .phase → p.1 = Config.tagPhase)

/-- The two logs have one length and every pair of words in them is legal (R166). -/
def LogsPaired (s : State) : Prop :=
  s.rx.rxA.length = s.rx.rxB.length ∧ ∀ p ∈ s.rx.rxA.zip s.rx.rxB, PairLegal p

/-! ## Runs -/

/-- The final state of a run (70_reset_and_hazards.md R215): no move left, the engine idle, nothing refused and no
fault recorded. A run that a fault ended has no state at all. -/
def Final (s : State) : Prop :=
  s.host = [] ∧ s.phase = .idle ∧ s.busy = false ∧ s.runRefused = false ∧ s.stopped = none

/-- Instructions one after the other, each to completion (R56). -/
def execAll : List Instr → State → Host.Outcome State Fault Refusal
  | [], s => .next s
  | i :: is, s => andThen (exec i s) (execAll is)

/-- `n` steps of the machine, stopping at the first fault or refusal. -/
def steps : Nat → State → Host.Outcome State Fault Refusal
  | 0, s => .next s
  | n + 1, s => andThen (step s) (steps n)

/-- The host move that hands an instruction's word to the machine. -/
def moveOf (i : Instr) : HostMove :=
  match encode i with
  | .command c => .command c
  | .wire w => .wire w

/-- The pins of a tick that presents a command word and no reset. -/
def presents (c : CmdWord) : PortIn := { rst := false, cmdValid := true, cmd := c }

/-- A shape code, if the instruction has one, is in the closed set (R81). -/
def ShapeInSet (i : Instr) : Prop :=
  match i with
  | .setShape code => code < 3
  | _ => True

/-- The state an outcome gives, if it gives one. -/
def stateOf (o : Host.Outcome State Fault Refusal) : Option State :=
  match o with
  | .next s => some s
  | _ => none

/-- The fault an outcome gives, if it gives one. -/
def faultOf (o : Host.Outcome State Fault Refusal) : Option Fault :=
  match o with
  | .fault r => some r
  | _ => none

end Sys2Proof.Safety
end

