-- ==== Sys2Proof/Certificates/Slice0/Obligations.lean ====
section
/-! DEFINITION. The statements for the provers. Each docstring names the rules of spec/ it formalises. -/

open Sys2Proof Sys2Proof.Machine Sys2Proof.Safety

/-! ## Constants and reset -/

/-- R6: the constants the source fixes have the values of the table, and `CW_MASK` is the OR of the four masks. -/
def Obligations.ConstantsHaveTheSourcesValues : Prop :=
  Config.wordBits = 16 ∧ Config.tagCtrl = 0x0000 ∧ Config.tagFreq = 0x4000 ∧ Config.tagPhase = 0xC000 ∧
  Config.tag10 = 0x8000 ∧ Config.fmax = 11811 ∧ Config.pmax = 4095 ∧
  Config.bitReset = 8 ∧ Config.bitHalf = 12 ∧ Config.bitShapeHi = 5 ∧ Config.bitShapeLo = 1 ∧
  Config.maskReset = (1 : Word) <<< Config.bitReset ∧ Config.maskHalf = (1 : Word) <<< Config.bitHalf ∧
  Config.maskShapeHi = (1 : Word) <<< Config.bitShapeHi ∧ Config.maskShapeLo = (1 : Word) <<< Config.bitShapeLo ∧
  Config.cwMask = 0x1122 ∧
  Config.cwMask = Config.maskReset ||| Config.maskHalf ||| Config.maskShapeHi ||| Config.maskShapeLo ∧
  Config.nChips = 2

/-- R25: every element of the state after reset, for every value of the open parameters. -/
def Obligations.ResetGivesTheStatedValues : Prop :=
  ∀ p : Config.Params,
    let s := State.resetWith p
    s.cw = 0x0000 ∧ s.fx = p.freqReset ∧ s.fy = p.freqReset ∧ s.ph = p.phaseReset ∧
    s.sra = 0x0000 ∧ s.srb = 0x0000 ∧ s.cnt = 0 ∧ s.phase = .idle ∧ s.busy = false ∧
    s.lines.fsync = true ∧ s.lines.sclk = true ∧
    s.lines.sdataA = p.sdataResetA ∧ s.lines.sdataB = p.sdataResetB ∧
    s.trace = [] ∧ s.rx.rxA = [] ∧ s.rx.rxB = []

/-- The invariants hold after reset, for every value of the open parameters; and the reset state of the interface is
one of these states (the values of the parameters in it are the model's choice, log entries 2 and 3). -/
def Obligations.ResetMeetsTheInvariants : Prop :=
  (∀ p : Config.Params,
    ControlLegal (State.resetWith p) ∧ FrequencyLegal (State.resetWith p) ∧ EngineAgrees (State.resetWith p) ∧
    TraceAgrees (State.resetWith p) ∧ LogsShowShadows (State.resetWith p) ∧ LogsPaired (State.resetWith p) ∧
    Ready (State.resetWith p)) ∧
  ∃ p : Config.Params, State.reset = State.resetWith p ∧ p.exposeXfer = false

/-! ## Decoding -/

/-- Words written out from the encodings of R71 to R74 and R88 (95_test_vectors.md CMD-1 and DEC-1) decode to the
instructions they stand for. The row XFER is read as exposed (the model's convention, log entry 5). -/
def Obligations.SampleWordsDecode : Prop :=
  decodeTableWord 40 0x000200020 = some (.xfer 0x0020 0x0020) ∧
  decodeTableWord 40 0x100010000 = some (.setReset true) ∧
  decodeTableWord 40 0x200010000 = some (.setRange true) ∧
  decodeTableWord 40 0x330000000 = some (.setFreq 0x3000) ∧
  decodeTableWord 40 0x410002000 = some (.setAxisFreq 0x1000 0x2000) ∧
  decodeTableWord 40 0x515000000 = some (.setPhase 0x1500) ∧
  decodeTableWord 40 0x600020000 = some (.setShape 2) ∧
  decodeTableWord 40 0x7FFFFFFFF = some (.reserved7 0xFFFFFFFF) ∧
  decodeTableWord 16 0x1120 = some (.ctrl true true true false) ∧
  decodeTableWord 16 0x6E23 = some (.freq 0x2E23) ∧
  decodeTableWord 16 0xC400 = some (.phase 0x400) ∧
  decodeTableWord 16 0xBFFF = some (.tag10 0x3FFF) ∧
  decodeTableWord 40 0x100020000 = none ∧
  decodeTableWord 16 0xD000 = none

/-- R168: decoding the word of any well-formed instruction gives the instruction back, with every operand at every value
its field holds; where XFER is not exposed, for every instruction but XFER. The spec marks the law as derived from R87 to
R89 ("decodeCmd(encodeCmd(k)) = k"). -/
def Obligations.DecodeUndoesEncode : Prop :=
  ∀ i : Instr, i.wellFormed = true →
    decode true (encode i) = .ok i ∧
    ((∀ a b, i ≠ .xfer a b) → decode false (encode i) = .ok i)

/-- R168: a word that decodes is the word of the instruction it decodes to, so each word has one meaning, and the
instruction is well-formed. The spec marks "At most one row can match" as derived. -/
def Obligations.EncodeUndoesDecode : Prop :=
  ∀ (e : Encoded) (expose : Bool) (i : Instr), decode expose e = .ok i → encode i = e ∧ i.wellFormed = true

/-- No word matches two command rows, and no wire word matches two wire rows. The spec derives the first from the rows'
`op` values (R168) and the second from the tag bits (R70, R73). -/
def Obligations.TableRowsAreDisjoint : Prop :=
  commandRows.Pairwise (fun r q => ∀ c : CmdWord, ¬(rowHits r c = true ∧ rowHits q c = true)) ∧
  wireRows.Pairwise (fun r q => ∀ w : Word, ¬(rowHits r w = true ∧ rowHits q w = true))

/-- R89: exactly which command words are reserved, and under which of the three names. -/
def Obligations.ReservedCommandWords : Prop :=
  ∀ (expose : Bool) (c : CmdWord),
    (decodeCmd expose c = .error .opSeven ↔ cmdOp c = 7) ∧
    (decodeCmd expose c = .error .xferNotExposed ↔ cmdOp c = 0 ∧ expose = false) ∧
    (decodeCmd expose c = .error .operandBits ↔
      ((cmdOp c = 1 ∨ cmdOp c = 2) ∧ (cmdA c &&& 0xFFFE ≠ 0 ∨ cmdB c ≠ 0)) ∨
      ((cmdOp c = 3 ∨ cmdOp c = 5) ∧ cmdB c ≠ 0) ∨
      (cmdOp c = 6 ∧ (cmdA c &&& 0xFFFC ≠ 0 ∨ cmdB c ≠ 0))) ∧
    (cmdOp c = 6 → cmdA c = 3 → cmdB c = 0 → decodeCmd expose c = .ok (.setShape 3))

/-- R160, R161: decodeCtrl answers for exactly the twelve control words, looks at the reserved bits first, and encodeCtrl
is its inverse. The spec marks both rules as derived from R12 to R14 and R70. -/
def Obligations.DecodeCtrlIsExact : Prop :=
  (∀ w : Word, (∃ c, decodeCtrl w = .ok c) ↔ w ∈ controlWords) ∧
  (∀ w : Word, decodeCtrl w = .error .reservedBitsSet ↔ w &&& 0xEEDD ≠ 0) ∧
  (∀ w : Word, decodeCtrl w = .error .unreachableShape ↔ w &&& 0xEEDD = 0 ∧ w &&& 0x0022 = 0x0022) ∧
  (∀ c : CtrlFields, decodeCtrl (encodeCtrl c) = .ok c ∧ classify (encodeCtrl c) = .ctrl) ∧
  (∀ (w : Word) (c : CtrlFields), decodeCtrl w = .ok c →
    encodeCtrl c = w ∧ c.reset = w.getLsbD 8 ∧ c.half = w.getLsbD 12 ∧
    (c.shape = .square ↔ w.getLsbD 5 = true) ∧ (c.shape = .triangle ↔ w.getLsbD 1 = true)) ∧
  (∀ w : Word, classify w = .ctrl ↔ w.toNat < 0x4000)

/-- R162, R163: decodeFreq and decodePhase of the words the block builds give the clamped operand, and each answers for
exactly the words of its format that are emitted, with the bits under the tag, and refuses the others by name. The spec
marks both rules as derived from R72, R73, R77 and R78. -/
def Obligations.DecodeFreqAndPhaseAreExact : Prop :=
  (∀ v : Nat, decodeFreq (freqWord v) = .ok (BitVec.ofNat 14 (min v Config.fmax)) ∧ classify (freqWord v) = .freq) ∧
  (∀ v : Nat, decodePhase (phaseWordY v) = .ok (BitVec.ofNat 12 (min v Config.pmax)) ∧
    classify (phaseWordY v) = .phase) ∧
  decodePhase phaseWordX = .ok 0 ∧
  (∀ w : Word, classify w = .freq →
    (w.toNat ≤ 0x6E23 → ∃ f, decodeFreq w = .ok f ∧ w.toNat = f.toNat + 0x4000) ∧
    (0x6E23 < w.toNat → decodeFreq w = .error .aboveFmax)) ∧
  (∀ w : Word, classify w = .phase →
    (w.toNat ≤ 0xCFFF → ∃ p, decodePhase w = .ok p ∧ w.toNat = p.toNat + 0xC000) ∧
    (0xCFFF < w.toNat → decodePhase w = .error .reservedBitsSet)) ∧
  (∀ f : BitVec 14, f.toNat ≤ Config.fmax → decodeFreq (f.zeroExtend 16 ||| 0x4000) = .ok f) ∧
  (∀ p : BitVec 12, decodePhase (p.zeroExtend 16 ||| 0xC000) = .ok p)

/-- R164, R82: decodeWord names a format for exactly the emitted words, classifies tag 10 and no more, and tells any two
emitted words apart (R165, law 4). The spec marks these rules as derived. -/
def Obligations.DecodeWordNamesTheEmittedSet : Prop :=
  (∀ w : Word,
    ((∃ c, decodeWord w = .ctrl c) ∨ (∃ f, decodeWord w = .freq f) ∨ (∃ p, decodeWord w = .phase p)) ↔ Emitted w) ∧
  (∀ w : Word, (∃ u, decodeWord w = .tag10 u ∧ w.toNat = u.toNat + 0x8000) ↔ 0x8000 ≤ w.toNat ∧ w.toNat ≤ 0xBFFF) ∧
  (∀ (w : Word) (c : CtrlFields), decodeWord w = .ctrl c ↔ classify w = .ctrl ∧ decodeCtrl w = .ok c) ∧
  (∀ (w : Word) (f : BitVec 14), decodeWord w = .freq f ↔ classify w = .freq ∧ decodeFreq w = .ok f) ∧
  (∀ (w : Word) (p : BitVec 12), decodeWord w = .phase p ↔ classify w = .phase ∧ decodePhase w = .ok p) ∧
  (∀ (w : Word) (r : NotEmitted), decodeWord w = .notEmitted r ↔
    (classify w = .ctrl ∧ decodeCtrl w = .error r) ∨ (classify w = .freq ∧ decodeFreq w = .error r) ∨
    (classify w = .phase ∧ decodePhase w = .error r)) ∧
  (∀ w w' : Word, Emitted w → Emitted w' → decodeWord w = decodeWord w' → w = w')

/-- R165, its five laws: each format decoder is inverse to its encoder on the emitted words of its format, in both directions;
the three emitted sets are pairwise disjoint and decodeWord is injective on their union; the fields and tags stand where the
source's numbers and its three end-to-end examples have them. The spec marks the laws as derived from R160 to R164. That
decodeFreq and decodePhase are total is the model's choice (log entry 21), and no clause rests on what they answer for a word
of another class. -/
def Obligations.RoundTripLaws : Prop :=
  CtrlRoundTrip ∧ FreqRoundTrip ∧ PhaseRoundTrip ∧ EmittedSetsApart ∧ FieldsPlaced

/-- The legal control words are the twelve values of R26, and they are the words of the twelve triples of fields. The spec
derives them from R13 and R14. -/
def Obligations.TwelveControlWords : Prop :=
  (∀ w : Word, LegalControl w ↔ w ∈ controlWords) ∧
  (∀ w : Word, w ∈ controlWords ↔ ∃ c : CtrlFields, encodeCtrl c = w)

/-! ## Operands -/

/-- R75, R77, R78: the clamps and tagged words, and the laws the spec derives for them in R76 and R142. The clamp acts on
the whole operand before any truncation. -/
def Obligations.ClampAndTagLaws : Prop :=
  (∀ v, clampF v ≤ Config.fmax ∧ (v ≤ Config.fmax → clampF v = v) ∧ (Config.fmax < v → clampF v = Config.fmax) ∧
    clampF (clampF v) = clampF v) ∧
  (∀ v, clampP v ≤ Config.pmax ∧ (v ≤ Config.pmax → clampP v = v) ∧ (Config.pmax < v → clampP v = Config.pmax) ∧
    clampP (clampP v) = clampP v) ∧
  (∀ v v', v ≤ v' → clampF v ≤ clampF v' ∧ clampP v ≤ clampP v') ∧
  (∀ v, (freqWord v).toNat = min v Config.fmax + 0x4000 ∧ (freqWord v &&& 0x3FFF).toNat = min v Config.fmax) ∧
  (∀ v, (phaseWordY v).toNat = min v Config.pmax + 0xC000 ∧ (phaseWordY v &&& 0x3FFF).toNat = min v Config.pmax) ∧
  phaseWordX = 0xC000

/-- R79, R142: a control-word update touches only the bits of its mask, is idempotent, and set-then-clear leaves the
mask's bits at 0 and the others as they were. The last two laws are derived by the spec (R142). -/
def Obligations.MaskUpdateLaws : Prop :=
  ∀ (cw mask : Word) (b : Bool),
    (∀ i, mask.getLsbD i = false → (putMask b cw mask).getLsbD i = cw.getLsbD i) ∧
    (∀ i, mask.getLsbD i = true → (putMask b cw mask).getLsbD i = b) ∧
    putMask b (putMask b cw mask) mask = putMask b cw mask ∧
    putMask false (putMask true cw mask) mask = cw &&& ~~~mask

/-! ## The transfer -/

/-- R100, R110: from a ready state XFER completes and sends its two words whatever they are; the trace grows by the 51
micro-steps, in the order of R102, and no shadow register changes. R110 is derived by the spec from R100; the order is its
decision D9. -/
def Obligations.XferSendsBothWords : Prop :=
  ∀ (a b : Word) (s : State), Ready s →
    ∃ t, exec (.xfer a b) s = .next t ∧ Sent s t a b ∧ SameShadows s t ∧ SameSurroundings s t ∧
      t.trace.length = s.trace.length + 51

/-- R51: one XFER appends exactly one word to each log, and under the other order of 90_conflicts.md C3 the reference
receiver gets the same words from any idle line state (derived by the spec from R46, R48, R50 and R100). The sampling
edge is the spec's decision D8 (log entry 8). -/
def Obligations.EachChipReceivesItsWord : Prop :=
  (∀ (a b : Word) (s : State), Ready s →
    ∃ t, exec (.xfer a b) s = .next t ∧ t.rx.rxA = s.rx.rxA ++ [a] ∧ t.rx.rxB = s.rx.rxB ++ [b]) ∧
  (∀ (a b : Word) (l : Lines) (r : Receiver), l.fsync = true → l.sclk = true →
    ∃ l' r', walk (altTransferEvents a b) l r = .ok (l', r') ∧ r'.rxA = r.rxA ++ [a] ∧ r'.rxB = r.rxB ++ [b])

/-- R103: an XFER from a ready state makes 16 falling and 15 rising edges of SCLK inside the frame, one rising edge and no
falling edge outside it, FSYNC falls once and rises once, and SCLK is cleared 16 times, each time after a set. The counts
are derived by the spec from R100. -/
def Obligations.SixteenPulsesInOneFrame : Prop :=
  ∀ (a b : Word) (s : State), Ready s →
    ∃ t evs, exec (.xfer a b) s = .next t ∧ t.trace = s.trace ++ evs ∧ evs.length = 51 ∧
      countEdges evs s.lines = ⟨16, 15, 0, 1, 1, 1⟩ ∧
      evs.filter (fun e => decide (e = .sclk true ∨ e = .sclk false)) =
        (List.replicate 16 [LineEvent.sclk true, .sclk false]).flatten ++ [.sclk true]

/-! ## The public operations -/

/-- R120: SETRESET decodes from op 1, and from a ready state it sets or clears bit 8 of CW, leaves every other bit, sends
CW to both chips and changes no other shadow. -/
def Obligations.SetResetWritesBitEight : Prop :=
  (∀ (en expose : Bool), decodeCmd expose (cmdWord 1 (boolOperand en) 0) = .ok (.setReset en)) ∧
  (∀ (en : Bool) (s : State), Ready s →
    ∃ t, exec (.setReset en) s = .next t ∧ t.cw.getLsbD 8 = en ∧ (∀ i, i ≠ 8 → t.cw.getLsbD i = s.cw.getLsbD i) ∧
      Sent s t t.cw t.cw ∧ t.fx = s.fx ∧ t.fy = s.fy ∧ t.ph = s.ph ∧ SameSurroundings s t)

/-- R124: the same for SETRANGE, op 2 and bit 12. -/
def Obligations.SetRangeWritesBitTwelve : Prop :=
  (∀ (hi expose : Bool), decodeCmd expose (cmdWord 2 (boolOperand hi) 0) = .ok (.setRange hi)) ∧
  (∀ (hi : Bool) (s : State), Ready s →
    ∃ t, exec (.setRange hi) s = .next t ∧ t.cw.getLsbD 12 = hi ∧ (∀ i, i ≠ 12 → t.cw.getLsbD i = s.cw.getLsbD i) ∧
      Sent s t t.cw t.cw ∧ t.fx = s.fx ∧ t.fy = s.fy ∧ t.ph = s.ph ∧ SameSurroundings s t)

/-- R130: SETFREQ decodes from op 3, stores the clamped and tagged word in FX and FY and sends it to both chips. The
operand is any natural number. -/
def Obligations.SetFreqStoresAndSends : Prop :=
  (∀ (a : Word) (expose : Bool), decodeCmd expose (cmdWord 3 a 0) = .ok (.setFreq a.toNat)) ∧
  (∀ (v : Nat) (s : State), Ready s →
    ∃ (t : State) (w : Word), w = BitVec.ofNat 16 (min v Config.fmax) ||| Config.tagFreq ∧
      exec (.setFreq v) s = .next t ∧ t.fx = w ∧ t.fy = w ∧ Sent s t w w ∧ t.cw = s.cw ∧ t.ph = s.ph ∧
      SameSurroundings s t)

/-- R135, R136: SETAXISFREQ decodes from op 4, sends each axis its own clamped and tagged word in one transfer, and leaves
FX and FY (and CW and PH) as they were. Chip A is the X axis and the shadows stay by the spec's decisions D11 and D25 (log
entries 9 and 11). -/
def Obligations.SetAxisFreqSendsAndKeepsShadows : Prop :=
  (∀ (a b : Word) (expose : Bool), decodeCmd expose (cmdWord 4 a b) = .ok (.setAxisFreq a.toNat b.toNat)) ∧
  (∀ (x y : Nat) (s : State), Ready s →
    ∃ t, exec (.setAxisFreq x y) s = .next t ∧
      Sent s t (BitVec.ofNat 16 (min x Config.fmax) ||| Config.tagFreq)
        (BitVec.ofNat 16 (min y Config.fmax) ||| Config.tagFreq) ∧
      SameShadows s t ∧ SameSurroundings s t)

/-- R140, R141: SETPHASE decodes from op 5, stores the clamped operand without tag in PH, and sends the constant
phase-zero word to chip A and the tagged operand to chip B. Chip A is the X axis by the spec's decision D11 (log entry
9). -/
def Obligations.SetPhaseStoresAndSends : Prop :=
  (∀ (a : Word) (expose : Bool), decodeCmd expose (cmdWord 5 a 0) = .ok (.setPhase a.toNat)) ∧
  (∀ (v : Nat) (s : State), Ready s →
    ∃ t, exec (.setPhase v) s = .next t ∧ t.ph.toNat = min v Config.pmax ∧
      Sent s t 0xC000 (BitVec.ofNat 16 (min v Config.pmax) ||| 0xC000) ∧
      t.cw = s.cw ∧ t.fx = s.fx ∧ t.fy = s.fy ∧ SameSurroundings s t)

/-- R150, R151: SETSHAPE decodes from op 6, and with a code of the closed set it rewrites both shape bits, whatever they
were, leaves every other bit of CW, sends CW to both chips and changes no other shadow; with any other code it faults (the
spec's decision D15). -/
def Obligations.SetShapeWritesTheShapeBits : Prop :=
  (∀ (code : Nat) (expose : Bool), code < 4 →
    decodeCmd expose (cmdWord 6 (BitVec.ofNat 16 code) 0) = .ok (.setShape code)) ∧
  (∀ (code : Nat) (s : State), Ready s → code < 3 →
    ∃ t, exec (.setShape code) s = .next t ∧ t.cw.getLsbD 5 = decide (code = 2) ∧
      t.cw.getLsbD 1 = decide (code = 1) ∧ (∀ i, i ≠ 5 → i ≠ 1 → t.cw.getLsbD i = s.cw.getLsbD i) ∧
      t.cw &&& 0x1100 = s.cw &&& 0x1100 ∧
      Sent s t t.cw t.cw ∧ t.fx = s.fx ∧ t.fy = s.fy ∧ t.ph = s.ph ∧ SameSurroundings s t) ∧
  (∀ (code : Nat) (s : State), Ready s → 3 ≤ code → exec (.setShape code) s = .fault (.illegalShape code))

/-- In a run that no fault has stopped, the fault IllegalShape is raised by SETSHAPE alone, with its own code, for a code outside
the closed set (R182, R153) and for no other (R189: "only SETSHAPE has one"); the one such code the command port can carry is
3 (R153). That the fault leaves no next state is the model's reading of R182 and R190 (log entry 12, DEDUCED). -/
def Obligations.IllegalShapeOnlyFromSetShape : Prop :=
  (∀ (code : Nat) (s : State), s.stopped = none → s.busy = false → 3 ≤ code →
    exec (.setShape code) s = .fault (.illegalShape code)) ∧
  (∀ (i : Instr) (s : State) (code : Nat), s.stopped = none → exec i s = .fault (.illegalShape code) →
    i = .setShape code ∧ 3 ≤ code) ∧
  (∀ (c : CmdWord) (expose : Bool) (code : Nat), decodeCmd expose c = .ok (.setShape code) → 3 ≤ code → code = 3)

/-- Each operation issued twice sends the same two words twice and leaves the shadows as after the first issue; the second
transfer is not suppressed. R121 says it of SETRESET; for the other operations it is R53, where the absence of write
suppression is an inference the spec marks as its own ("there is no write suppression", derived), and R107 for XFER. -/
def Obligations.IssuingTwiceSendsTheSameWords : Prop :=
  ∀ (i : Instr) (s : State), i.isOperation = true → ShapeInSet i → Ready s →
    ∃ t u a b, exec i s = .next t ∧ exec i t = .next u ∧ Sent s t a b ∧ Sent t u a b ∧ SameShadows t u

/-- The words a frequency or phase command sends do not depend on CW, and no operation's words depend on FX,
FY or PH: they are write-only shadows. R125 says the first of CW's half bit; the rest is derived by the spec (R131, R15,
R16). -/
def Obligations.WordsSentDependOnControlWordOnly : Prop :=
  ∀ (i : Instr) (s s' : State), i.isOperation = true → ShapeInSet i → Ready s → Ready s' →
    (s.cw = s'.cw ∨ (∃ v, i = .setFreq v) ∨ (∃ x y, i = .setAxisFreq x y) ∨ (∃ v, i = .setPhase v)) →
    ∃ t t' a b, exec i s = .next t ∧ exec i s' = .next t' ∧ Sent s t a b ∧ Sent s' t' a b

/-! ## Reserved commands and commands presented while busy -/

/-- R89, R186: RESERVED7 is dropped: from any state with BUSY = 0 nothing changes but the mark on the run. That a marked
run goes on is the model's reading (log entry 7). -/
def Obligations.ReservedSevenIsDropped : Prop :=
  ∀ (u : BitVec 32) (s : State), s.stopped = none → s.busy = false →
    exec (.reserved7 u) s = .next { s with runRefused := true }

/-- R186: a reserved command word presented to a ready block, as a command or at a tick, is dropped: no register changes,
no line moves, BUSY stays 0, TRACE is unchanged, and the run is marked refused. That a marked run goes on is the model's
reading (log entry 7). -/
def Obligations.ReservedWordIsDropped : Prop :=
  ∀ (c : CmdWord) (s : State) (r : Reserved), s.stopped = none → s.busy = false → decodeCmd s.params.exposeXfer c = .error r →
    (∀ rest, s.host = .command c :: rest → step s = .next { s with host := rest, runRefused := true }) ∧
    tick (presents c) s = .next { s with runRefused := true }

/-- R187, R86: while BUSY a presented command is held: as an instruction, as a host move (it stays on the list) and at a
tick, the block only makes its next micro-step, which changes no shadow register. That the list keeps
the command is the model's host (log entries 4 and 16). -/
def Obligations.BusyHoldsTheCommand : Prop :=
  ∀ (s : State), s.stopped = none → s.busy = true →
    (∀ i : Instr, i.isOperation = true → exec i s = microStep s) ∧
    (∀ u, exec (.reserved7 u) s = microStep s) ∧
    (∀ c rest, s.host = .command c :: rest → step s = microStep s) ∧
    (∀ c, tick (presents c) s = microStep s) ∧
    (∀ t, microStep s = .next t → SameShadows s t ∧ SameSurroundings s t)

/-! ## The wire rows -/

/-- R161: a word of the row CTRL is answered with its fields, or with UnreachableShape if both shape bits are set, and no
state of the block changes. The decoder's verdict is derived by the spec; that the machine keeps it as its answer is the
model's choice (log entry 6). -/
def Obligations.CtrlWordIsRead : Prop :=
  ∀ (half reset hi lo : Bool) (s : State), s.stopped = none →
    exec (.ctrl half reset hi lo) s = .next { s with
      answer := some (if hi = true ∧ lo = true then .notEmitted .unreachableShape
        else .ctrl ⟨reset, half, if hi = true then .square else if lo = true then .triangle else .sine⟩) }

/-- R162, R163, R160: a word of the row FREQ is answered with its magnitude if that is at most FMAX and with AboveFmax if
not, a word of the row PHASE with its magnitude, a word of the row TAG10 with its class and the bits under it, and no state
of the block changes. The decoders' verdicts are derived by the spec; that the machine keeps them as its answer is the
model's choice (log entry 6). -/
def Obligations.FreqPhaseAndTagTenWordsAreRead : Prop :=
  (∀ (f : BitVec 14) (s : State), s.stopped = none → exec (.freq f) s = .next { s with
    answer := some (if f.toNat ≤ Config.fmax then .freq f else .notEmitted .aboveFmax) }) ∧
  (∀ (p : BitVec 12) (s : State), s.stopped = none →
    exec (.phase p) s = .next { s with answer := some (.phase p) }) ∧
  (∀ (u : BitVec 14) (s : State), s.stopped = none →
    exec (.tag10 u) s = .next { s with answer := some (.tag10 u) })

/-! ## Frames -/

/-- What the three control-word operations leave unchanged in any state whatever: FX, FY, PH, the fields that are not the
block's, and every bit of CW but their own. -/
def Obligations.ControlOperationsFrame : Prop :=
  (∀ (en : Bool) (s t : State), exec (.setReset en) s = .next t →
    t.fx = s.fx ∧ t.fy = s.fy ∧ t.ph = s.ph ∧ SameSurroundings s t ∧ ∀ i, i ≠ 8 → t.cw.getLsbD i = s.cw.getLsbD i) ∧
  (∀ (hi : Bool) (s t : State), exec (.setRange hi) s = .next t →
    t.fx = s.fx ∧ t.fy = s.fy ∧ t.ph = s.ph ∧ SameSurroundings s t ∧ ∀ i, i ≠ 12 → t.cw.getLsbD i = s.cw.getLsbD i) ∧
  (∀ (code : Nat) (s t : State), exec (.setShape code) s = .next t →
    t.fx = s.fx ∧ t.fy = s.fy ∧ t.ph = s.ph ∧ SameSurroundings s t ∧
    ∀ i, i ≠ 5 → i ≠ 1 → t.cw.getLsbD i = s.cw.getLsbD i)

/-- What XFER and the frequency and phase operations leave unchanged in any state whatever. That SETAXISFREQ leaves FX and
FY is the spec's decision D25 (log entry 11). -/
def Obligations.DataOperationsFrame : Prop :=
  (∀ (a b : Word) (s t : State), exec (.xfer a b) s = .next t → SameShadows s t ∧ SameSurroundings s t) ∧
  (∀ (v : Nat) (s t : State), exec (.setFreq v) s = .next t → t.cw = s.cw ∧ t.ph = s.ph ∧ SameSurroundings s t) ∧
  (∀ (x y : Nat) (s t : State), exec (.setAxisFreq x y) s = .next t → SameShadows s t ∧ SameSurroundings s t) ∧
  (∀ (v : Nat) (s t : State), exec (.setPhase v) s = .next t →
    t.cw = s.cw ∧ t.fx = s.fx ∧ t.fy = s.fy ∧ SameSurroundings s t)

/-- R46, R23: TRACE and the logs only grow: whatever instruction runs, in any state, what was there stays as a prefix. -/
def Obligations.TraceAndLogsOnlyGrow : Prop :=
  ∀ (i : Instr) (s t : State), exec i s = .next t →
    s.trace <+: t.trace ∧ s.rx.rxA <+: t.rx.rxA ∧ s.rx.rxB <+: t.rx.rxB

/-! ## The step -/

/-- A command word at the head of the host's moves that decodes is run by exec when the block is ready, and a wire word that
decodes is run by exec at once; all that the step adds is that the move is taken from the list (the model's host, log
entries 4 and 6). -/
def Obligations.StepRunsTheDecodedInstruction : Prop :=
  (∀ (s : State) (c : CmdWord) (rest : List HostMove) (i : Instr), s.host = .command c :: rest → s.busy = false →
    decode s.params.exposeXfer (.command c) = .ok i → step s = exec i { s with host := rest }) ∧
  (∀ (s : State) (w : Word) (rest : List HostMove) (i : Instr), s.host = .wire w :: rest →
    decode s.params.exposeXfer (.wire w) = .ok i → step s = exec i { s with host := rest })

/-- A word presented by withFetchWord is run by the very next step of a ready machine: the step is exec of the instruction
the row's word decodes to, with EXPOSE_XFER set if that is XFER (the model's convention, log entries 4 and 5). -/
def Obligations.PresentedWordRunsNext : Prop :=
  ∀ (s : State) (nbits w : Nat) (i : Instr), s.busy = false → decodeTableWord nbits w = some i →
    ∃ p : Config.Params, step (s.withFetchWord nbits w) = exec i { s with params := p } ∧
      ((∀ a b, i ≠ .xfer a b) → p = s.params) ∧
      ((∃ a b, i = .xfer a b) → p = { s.params with exposeXfer := true })

/-- Where a step can stop. From a state in which the engine and the lines agree a step never refuses, and it faults only with
IllegalShape of a code outside the closed set, with BUSY = 0, with PinInterference, from a foreign driver, or with the fault
that is recorded already and has stopped the run (R190); the engine raises TruncatedFrame in none of them (R52, derived by the
spec). That `rst` in an open frame records TruncatedFrame in a next state and the run stops from there on is the model's
reading (log entry 14, DEDUCED), as is that a reserved word does not stop it (log entry 7, DEDUCED). The host moves are the
model's (log entries 4 and 18). -/
def Obligations.OnlyTheseFaultsCanHappen : Prop :=
  ∀ s : State, EngineAgrees s →
    (∀ r, step s ≠ .refused r) ∧
    (∀ f, step s = .fault f →
      (∃ code, f = .illegalShape code ∧ 3 ≤ code ∧ s.busy = false) ∨
      (f = .pinInterference ∧ ∃ e rest, s.host = .foreign e :: rest) ∨
      s.stopped = some f)

/-- An instruction itself, from a state in which the engine and the lines agree, in a run that no fault has stopped, always
completes or waits, but for a SETSHAPE with a code outside the closed set: nothing else faults and nothing refuses (R180; R182
and R153 for the fault, R187 for the wait). These parts are the model's: the wire rows have a meaning (log entry 6), RESERVED7
leads to a next state (entry 7), the fault leaves none (entry 12), and an instruction while BUSY makes the engine's next
micro-step (entry 16). -/
def Obligations.EveryInstructionCompletes : Prop :=
  ∀ (i : Instr) (s : State), EngineAgrees s → s.stopped = none →
    (∃ t, exec i s = .next t) ∨
    (∃ code, i = .setShape code ∧ 3 ≤ code ∧ s.busy = false ∧ exec i s = .fault (.illegalShape code))

/-- R184, R226: another agent driving a line faults, in any state of a run that no fault has stopped. That the model has such a move, where the spec also lets
it be a mere premise, is the model's choice (log entry 18). -/
def Obligations.ForeignDriverFaults : Prop :=
  ∀ (s : State) (e : LineEvent) (rest : List HostMove), s.stopped = none → s.host = .foreign e :: rest →
    step s = .fault .pinInterference

/-! ## Invariants -/

/-- R13: the control word has no bit outside the mask after reset, whatever the parameters, and every step, from any state
in which that holds, keeps it. -/
def Obligations.StepKeepsReservedBitsZero : Prop :=
  (∀ p : Config.Params, (State.resetWith p).cw &&& ~~~Config.cwMask = 0) ∧
  (∀ s t : State, s.cw &&& ~~~Config.cwMask = 0 → step s = .next t → t.cw &&& ~~~Config.cwMask = 0)

/-- Every step keeps the control word legal: no bit outside the mask and not both shape bits. That the two shape bits are
never both set is an inference the spec marks as its own (10_state.md section 2, "derived: from rule R25 ... and ...
R150"). -/
def Obligations.StepKeepsControlWordLegal : Prop :=
  ∀ s t : State, ControlLegal s → step s = .next t → ControlLegal t

/-- Every step keeps FX = FY, with the reset value or a word SETFREQ stores (R26, derived by the spec from R15 and R25). -/
def Obligations.StepKeepsFrequencyLegal : Prop :=
  ∀ s t : State, FrequencyLegal s → step s = .next t → FrequencyLegal t

/-- R21, R27, R109: every step, a whole operation or one micro-step, keeps the engine, the lines and the receiver's
buffers in agreement: BUSY is PHASE != IDLE, the lines are idle when BUSY = 0, and FSYNC is low through the frame. R27 is
derived by the spec; CNT is 0 in STOP, PARK and IDLE by R108. -/
def Obligations.StepKeepsEngineAndLinesInStep : Prop :=
  ∀ s t : State, EngineAgrees s → step s = .next t → EngineAgrees t

/-- R50: every step keeps the lines and the receive logs equal to what the reference receiver's walk over TRACE gives. -/
def Obligations.StepKeepsLogsEqualToTheWalk : Prop :=
  ∀ s t : State, TraceAgrees s → step s = .next t → TraceAgrees t

/-- R167 (derived by the spec): every public operation, from a ready state with a legal control word, keeps CW and PH
readable from the logs. -/
def Obligations.PublicOperationsKeepShadowsReadable : Prop :=
  ∀ (i : Instr) (s t : State), i.isPublic = true → Ready s → ControlLegal s → LogsShowShadows s →
    exec i s = .next t → LogsShowShadows t

/-- R166, R82 (derived by the spec): every public operation, from a ready state with a legal control word, sends two emitted
words of one class, equal if they are control words, chip A's the phase-zero word if they are phase words; so what R166
says of the logs is kept. -/
def Obligations.PublicOperationsKeepLogsPaired : Prop :=
  ∀ (i : Instr) (s t : State), i.isPublic = true → Ready s → ControlLegal s → LogsPaired s →
    exec i s = .next t → LogsPaired t ∧ ∃ a b, Sent s t a b ∧ PairLegal (a, b)

/-- R167, R227 (derived by the spec): a frequency word sent after SETRANGE, by SETFREQ or by SETAXISFREQ, stands in each
log next after what SETRANGE left, and is, read from that log, for the half that SETRANGE selected. -/
def Obligations.FrequencyWordGoesToTheSelectedHalf : Prop :=
  ∀ (hi : Bool) (s : State), Ready s → ControlLegal s →
    ∃ t, exec (.setRange hi) s = .next t ∧
      (∀ v : Nat, ∃ u, exec (.setFreq v) t = .next u ∧
        u.rx.rxA = t.rx.rxA ++ [freqWord v] ∧ halfAt u.rx.rxA t.rx.rxA.length = some hi ∧
        u.rx.rxB = t.rx.rxB ++ [freqWord v] ∧ halfAt u.rx.rxB t.rx.rxB.length = some hi) ∧
      (∀ x y : Nat, ∃ u, exec (.setAxisFreq x y) t = .next u ∧
        u.rx.rxA = t.rx.rxA ++ [freqWord x] ∧ halfAt u.rx.rxA t.rx.rxA.length = some hi ∧
        u.rx.rxB = t.rx.rxB ++ [freqWord y] ∧ halfAt u.rx.rxB t.rx.rxB.length = some hi)

/-- R26: every legal control word is reached from reset by at most three public operations (derived by the spec: "one
SETSHAPE, one SETRESET, one SETRANGE"). -/
def Obligations.EveryControlWordIsReachable : Prop :=
  ∀ (p : Config.Params) (w : Word), w ∈ controlWords →
    ∃ (is : List Instr) (t : State), is.length ≤ 3 ∧ (∀ i ∈ is, i.isPublic = true) ∧
      execAll is (State.resetWith p) = .next t ∧ t.cw = w

/-! ## The two levels -/

/-- R108, R54: the micro-step machine refines the command level: accepting a command at a tick and then making 51 ticks,
whatever is presented at them, gives exactly what exec gives, fault or state. The two levels are the spec's decision D2. -/
def Obligations.TicksRefineTheOperation : Prop :=
  ∀ (s : State) (c : CmdWord) (i : Instr) (pins : List PortIn), Ready s →
    decodeCommandRow s.params.exposeXfer c = .ok i → i.isOperation = true →
    pins.length = 51 → (∀ p ∈ pins, p.rst = false) →
    ticks (presents c :: pins) s = exec i s

/-- R230: after acceptance micro-step k is done at the k-th tick after it: the first k events of the operation's own transfer,
of the two words that exec sends for it, are on the trace then, and the block is ready again after the 51st and not before.
One micro-step a tick is the spec's decision D19. -/
def Obligations.ReadyAgainAfterFiftyOneTicks : Prop :=
  ∀ (s : State) (c : CmdWord) (i : Instr) (pins : List PortIn), Ready s →
    decodeCommandRow s.params.exposeXfer c = .ok i → i.isOperation = true → ShapeInSet i →
    pins.length = 51 → (∀ p ∈ pins, p.rst = false) →
    ∃ (done : State) (a b : Word), exec i s = .next done ∧ Sent s done a b ∧
      ∀ k, k ≤ 51 →
        ∃ t, ticks (presents c :: pins.take k) s = .next t ∧
          t.trace = s.trace ++ (transferEvents a b).take k ∧ (cmdReady t = true ↔ k = 51)

/-- R56: a list of public operations on the host's list runs in issue order, each to completion: as many steps as there are
commands give what the operations one after the other give, the block is ready again and each chip has one word more for
each command. That the host is a list of moves is the model's (log entry 4). -/
def Obligations.CommandsRunInIssueOrder : Prop :=
  ∀ (is : List Instr) (s : State), Ready s →
    (∀ i ∈ is, i.isPublic = true ∧ i.wellFormed = true ∧ ShapeInSet i) → s.host = is.map moveOf →
    ∃ t, steps is.length s = .next t ∧ execAll is { s with host := [] } = .next t ∧ Ready t ∧
      t.host = [] ∧ (s.phase = .idle → s.runRefused = false → Final t) ∧
      t.rx.rxA.length = s.rx.rxA.length + is.length ∧ t.rx.rxB.length = s.rx.rxB.length + is.length

/-! ## The input rst -/

/-- R210, R25: `rst` wins over a presented command and over the engine, and every element of the state takes its reset value,
whatever else is happening, in a run that no fault has stopped. What stays is not the block's: the parameters, the host's
moves, the refused mark and the last answer (the model's choice, log entry 14). The fault that is recorded is R224 and R183,
with the frame and the count of R50; that it is recorded in the reset state, from which no step is made, is the model's
reading (log entry 14, DEDUCED). -/
def Obligations.RstRestoresEveryElement : Prop :=
  ∀ (s : State) (pins : PortIn), s.stopped = none → pins.rst = true →
    ∃ recorded : Option Fault, tick pins s = .next { State.resetWith s.params with
      runRefused := s.runRefused, stopped := recorded, host := s.host, answer := s.answer } ∧
      ((s.lines.fsync = true ∨ s.rx.ba.length = 16) → recorded = none) ∧
      (s.lines.fsync = false → s.rx.ba.length ≠ 16 → recorded = some (.truncatedFrame s.rx.ba.length))

/-- R224, R183: from a state in which the engine and the lines agree, in a run that no fault has stopped, `rst` between the
fall of FSYNC and the sixteenth sampling edge records the fault with the number of bits sampled, and in any other phase it
records none; in STOP the receiver gets both words first. That it records none in START is read from R50 and R224 together,
and that the record stands in the reset state is the model's reading (both log entry 14, DEDUCED). -/
def Obligations.RstInAFrameTruncatesIt : Prop :=
  ∀ (s : State) (pins : PortIn), s.stopped = none → pins.rst = true → EngineAgrees s →
    ((s.phase = .data ∨ s.phase = .clkHi ∨ s.phase = .clkLo) →
      16 - s.cnt.toNat < 16 ∧
      ∃ t, tick pins s = .next t ∧ t.stopped = some (.truncatedFrame (16 - s.cnt.toNat))) ∧
    ((s.phase = .idle ∨ s.phase = .start ∨ s.phase = .park) →
      rstVerdict s = .ok s.rx ∧ ∃ t, tick pins s = .next t ∧ t.stopped = none) ∧
    (s.phase = .stop →
      rstVerdict s = .ok { s.rx with
        rxA := s.rx.rxA ++ [wordOfBits s.rx.ba], rxB := s.rx.rxB ++ [wordOfBits s.rx.bb] } ∧
      ∃ t, tick pins s = .next t ∧ t.stopped = none)

/-- No step follows a recorded fault (R190: a fault stops the run), so none clears it (R185), and every step that gives a next
state keeps the refused mark (R186). A step records a fault only at a tick with `rst` (R224, R183). That the record stands in
the next state, the reset one, is the model's reading (log entry 14, DEDUCED), and so is that the refused mark lasts as a
fault does (log entry 7, DEDUCED). -/
def Obligations.RecordsAreNeverCleared : Prop :=
  ∀ s t : State, step s = .next t →
    s.stopped = none ∧ (s.runRefused = true → t.runRefused = true) ∧
    (t.stopped ≠ none → ∃ pins rest, s.host = .tick pins :: rest ∧ pins.rst = true)

/-- R190, R185: a recorded fault stops the run: in every state that holds one, every step, every instruction and every tick,
one with `rst` among them, ends in that fault; and a step after `rst` has cut a frame short is never made. That the record
stands in a state, the reset one, is the model's reading (log entry 14, DEDUCED). -/
def Obligations.RecordedFaultStopsTheRun : Prop :=
  (∀ (s : State) (f : Fault), s.stopped = some f →
    step s = .fault f ∧ (∀ i : Instr, exec i s = .fault f) ∧ ∀ pins : PortIn, tick pins s = .fault f) ∧
  (∀ (s : State) (pins : PortIn) (rest : List HostMove), s.stopped = none → s.host = .tick pins :: rest →
    pins.rst = true → s.lines.fsync = false → s.rx.ba.length ≠ 16 →
    ∀ n, steps (n + 2) s = .fault (.truncatedFrame s.rx.ba.length))
end

