-- ==== Sys2Proof/Laws/Decode.lean ====
section
/-! SUPPORT. The fields of a command word and the bits of the wire formats. -/

namespace Sys2Proof

/-- Bit by bit, a command word is its three fields (R87). -/
theorem cmdWord_getLsbD (op : BitVec 3) (a b : Word) (i : Nat) :
    (cmdWord op a b).getLsbD i =
      if i < 16 then b.getLsbD i else if i < 32 then a.getLsbD (i - 16) else op.getLsbD (i - 32) := by
  have h : (cmdWord op a b).getLsbD i = (op ++ a ++ b).getLsbD i := rfl
  rw [h, BitVec.getLsbD_append, BitVec.getLsbD_append]
  by_cases h1 : i < 16
  · simp [h1]
  · by_cases h2 : i < 32
    · simp [h1, h2, show i - 16 < 16 by omega]
    · simp [h1, h2, show ¬(i - 16 < 16) by omega, Nat.sub_sub]

@[simp] theorem cmdOp_cmdWord (op : BitVec 3) (a b : Word) : cmdOp (cmdWord op a b) = op := by
  apply BitVec.eq_of_getLsbD_eq
  intro i hi
  simp only [cmdOp, BitVec.getLsbD_extractLsb', cmdWord_getLsbD]
  interval_cases i <;> simp

@[simp] theorem cmdA_cmdWord (op : BitVec 3) (a b : Word) : cmdA (cmdWord op a b) = a := by
  apply BitVec.eq_of_getLsbD_eq
  intro i hi
  simp only [cmdA, BitVec.getLsbD_extractLsb', cmdWord_getLsbD]
  interval_cases i <;> simp

@[simp] theorem cmdB_cmdWord (op : BitVec 3) (a b : Word) : cmdB (cmdWord op a b) = b := by
  apply BitVec.eq_of_getLsbD_eq
  intro i hi
  simp only [cmdB, BitVec.getLsbD_extractLsb', cmdWord_getLsbD]
  interval_cases i <;> simp

/-- Every command word is its three fields put together (R87). -/
theorem cmdWord_fields (c : CmdWord) : cmdWord (cmdOp c) (cmdA c) (cmdB c) = c := by
  apply BitVec.eq_of_getLsbD_eq
  intro i hi
  simp only [cmdOp, cmdA, cmdB, BitVec.getLsbD_extractLsb', cmdWord_getLsbD]
  interval_cases i <;> simp

/-- A mask acts on each field of a command word by itself. -/
theorem cmdWord_and (op op' : BitVec 3) (a a' b b' : Word) :
    cmdWord op a b &&& cmdWord op' a' b' = cmdWord (op &&& op') (a &&& a') (b &&& b') := by
  apply BitVec.eq_of_getLsbD_eq
  intro i hi
  simp only [BitVec.getLsbD_and, cmdWord_getLsbD]
  split
  · rfl
  · split <;> rfl

/-- Two command words are equal when their three fields are. -/
theorem cmdWord_inj (op op' : BitVec 3) (a a' b b' : Word) :
    cmdWord op a b = cmdWord op' a' b' ↔ op = op' ∧ a = a' ∧ b = b' := by
  constructor
  · intro h
    exact ⟨by simpa using congrArg cmdOp h, by simpa using congrArg cmdA h, by simpa using congrArg cmdB h⟩
  · rintro ⟨rfl, rfl, rfl⟩; rfl

/-- A command row matches a word field by field. -/
theorem rowHits_cmdWord (mop pop op : BitVec 3) (ma pa a mb pb b : Word) :
    rowHits ⟨cmdWord mop ma mb, cmdWord pop pa pb⟩ (cmdWord op a b) = true ↔
      op &&& mop = pop ∧ a &&& ma = pa ∧ b &&& mb = pb := by
  simp [rowHits, cmdWord_and, cmdWord_inj]

/-- Bit by bit, a FREQ word (R72). -/
theorem freqFormat_getLsbD (f : BitVec 14) (i : Nat) :
    (freqFormat f).getLsbD i = if i < 14 then f.getLsbD i else (0b01#2).getLsbD (i - 14) := by
  have h : (freqFormat f).getLsbD i = (0b01#2 ++ f).getLsbD i := rfl
  rw [h, BitVec.getLsbD_append]

/-- Bit by bit, a PHASE word (R73). -/
theorem phaseFormat_getLsbD (p : BitVec 12) (i : Nat) :
    (phaseFormat p).getLsbD i = if i < 12 then p.getLsbD i else (0b1100#4).getLsbD (i - 12) := by
  have h : (phaseFormat p).getLsbD i = (0b1100#4 ++ p).getLsbD i := rfl
  rw [h, BitVec.getLsbD_append]

/-- Bit by bit, a word of tag 10 (R74). -/
theorem tag10Format_getLsbD (u : BitVec 14) (i : Nat) :
    (tag10Format u).getLsbD i = if i < 14 then u.getLsbD i else (0b10#2).getLsbD (i - 14) := by
  have h : (tag10Format u).getLsbD i = (0b10#2 ++ u).getLsbD i := rfl
  rw [h, BitVec.getLsbD_append]

end Sys2Proof
end

