-- ==== Sys2Proof/Laws/State.lean ====
section
/-! SUPPORT. One lemma for each field and each named update of State. -/

namespace Sys2Proof.Machine

variable (s : State)

/-! ### setCw -/

@[simp] theorem setCw_cw (w : Word) : (setCw w s).cw = w := rfl
@[simp] theorem setCw_fx (w : Word) : (setCw w s).fx = s.fx := rfl
@[simp] theorem setCw_fy (w : Word) : (setCw w s).fy = s.fy := rfl
@[simp] theorem setCw_ph (w : Word) : (setCw w s).ph = s.ph := rfl
@[simp] theorem setCw_sra (w : Word) : (setCw w s).sra = s.sra := rfl
@[simp] theorem setCw_srb (w : Word) : (setCw w s).srb = s.srb := rfl
@[simp] theorem setCw_cnt (w : Word) : (setCw w s).cnt = s.cnt := rfl
@[simp] theorem setCw_phase (w : Word) : (setCw w s).phase = s.phase := rfl
@[simp] theorem setCw_busy (w : Word) : (setCw w s).busy = s.busy := rfl
@[simp] theorem setCw_lines (w : Word) : (setCw w s).lines = s.lines := rfl
@[simp] theorem setCw_trace (w : Word) : (setCw w s).trace = s.trace := rfl
@[simp] theorem setCw_rx (w : Word) : (setCw w s).rx = s.rx := rfl
@[simp] theorem setCw_runRefused (w : Word) : (setCw w s).runRefused = s.runRefused := rfl
@[simp] theorem setCw_stopped (w : Word) : (setCw w s).stopped = s.stopped := rfl
@[simp] theorem setCw_params (w : Word) : (setCw w s).params = s.params := rfl
@[simp] theorem setCw_host (w : Word) : (setCw w s).host = s.host := rfl
@[simp] theorem setCw_answer (w : Word) : (setCw w s).answer = s.answer := rfl

/-! ### setFxFy -/

@[simp] theorem setFxFy_cw (w : Word) : (setFxFy w s).cw = s.cw := rfl
@[simp] theorem setFxFy_fx (w : Word) : (setFxFy w s).fx = w := rfl
@[simp] theorem setFxFy_fy (w : Word) : (setFxFy w s).fy = w := rfl
@[simp] theorem setFxFy_ph (w : Word) : (setFxFy w s).ph = s.ph := rfl
@[simp] theorem setFxFy_sra (w : Word) : (setFxFy w s).sra = s.sra := rfl
@[simp] theorem setFxFy_srb (w : Word) : (setFxFy w s).srb = s.srb := rfl
@[simp] theorem setFxFy_cnt (w : Word) : (setFxFy w s).cnt = s.cnt := rfl
@[simp] theorem setFxFy_phase (w : Word) : (setFxFy w s).phase = s.phase := rfl
@[simp] theorem setFxFy_busy (w : Word) : (setFxFy w s).busy = s.busy := rfl
@[simp] theorem setFxFy_lines (w : Word) : (setFxFy w s).lines = s.lines := rfl
@[simp] theorem setFxFy_trace (w : Word) : (setFxFy w s).trace = s.trace := rfl
@[simp] theorem setFxFy_rx (w : Word) : (setFxFy w s).rx = s.rx := rfl
@[simp] theorem setFxFy_runRefused (w : Word) : (setFxFy w s).runRefused = s.runRefused := rfl
@[simp] theorem setFxFy_stopped (w : Word) : (setFxFy w s).stopped = s.stopped := rfl
@[simp] theorem setFxFy_params (w : Word) : (setFxFy w s).params = s.params := rfl
@[simp] theorem setFxFy_host (w : Word) : (setFxFy w s).host = s.host := rfl
@[simp] theorem setFxFy_answer (w : Word) : (setFxFy w s).answer = s.answer := rfl

/-! ### setPh -/

@[simp] theorem setPh_cw (p : BitVec 12) : (setPh p s).cw = s.cw := rfl
@[simp] theorem setPh_fx (p : BitVec 12) : (setPh p s).fx = s.fx := rfl
@[simp] theorem setPh_fy (p : BitVec 12) : (setPh p s).fy = s.fy := rfl
@[simp] theorem setPh_ph (p : BitVec 12) : (setPh p s).ph = p := rfl
@[simp] theorem setPh_sra (p : BitVec 12) : (setPh p s).sra = s.sra := rfl
@[simp] theorem setPh_srb (p : BitVec 12) : (setPh p s).srb = s.srb := rfl
@[simp] theorem setPh_cnt (p : BitVec 12) : (setPh p s).cnt = s.cnt := rfl
@[simp] theorem setPh_phase (p : BitVec 12) : (setPh p s).phase = s.phase := rfl
@[simp] theorem setPh_busy (p : BitVec 12) : (setPh p s).busy = s.busy := rfl
@[simp] theorem setPh_lines (p : BitVec 12) : (setPh p s).lines = s.lines := rfl
@[simp] theorem setPh_trace (p : BitVec 12) : (setPh p s).trace = s.trace := rfl
@[simp] theorem setPh_rx (p : BitVec 12) : (setPh p s).rx = s.rx := rfl
@[simp] theorem setPh_runRefused (p : BitVec 12) : (setPh p s).runRefused = s.runRefused := rfl
@[simp] theorem setPh_stopped (p : BitVec 12) : (setPh p s).stopped = s.stopped := rfl
@[simp] theorem setPh_params (p : BitVec 12) : (setPh p s).params = s.params := rfl
@[simp] theorem setPh_host (p : BitVec 12) : (setPh p s).host = s.host := rfl
@[simp] theorem setPh_answer (p : BitVec 12) : (setPh p s).answer = s.answer := rfl

/-! ### markRefused -/

@[simp] theorem markRefused_cw : (markRefused s).cw = s.cw := rfl
@[simp] theorem markRefused_fx : (markRefused s).fx = s.fx := rfl
@[simp] theorem markRefused_fy : (markRefused s).fy = s.fy := rfl
@[simp] theorem markRefused_ph : (markRefused s).ph = s.ph := rfl
@[simp] theorem markRefused_sra : (markRefused s).sra = s.sra := rfl
@[simp] theorem markRefused_srb : (markRefused s).srb = s.srb := rfl
@[simp] theorem markRefused_cnt : (markRefused s).cnt = s.cnt := rfl
@[simp] theorem markRefused_phase : (markRefused s).phase = s.phase := rfl
@[simp] theorem markRefused_busy : (markRefused s).busy = s.busy := rfl
@[simp] theorem markRefused_lines : (markRefused s).lines = s.lines := rfl
@[simp] theorem markRefused_trace : (markRefused s).trace = s.trace := rfl
@[simp] theorem markRefused_rx : (markRefused s).rx = s.rx := rfl
@[simp] theorem markRefused_runRefused : (markRefused s).runRefused = true := rfl
@[simp] theorem markRefused_stopped : (markRefused s).stopped = s.stopped := rfl
@[simp] theorem markRefused_params : (markRefused s).params = s.params := rfl
@[simp] theorem markRefused_host : (markRefused s).host = s.host := rfl
@[simp] theorem markRefused_answer : (markRefused s).answer = s.answer := rfl

/-! ### recordFault -/

@[simp] theorem recordFault_cw (f : Fault) : (recordFault f s).cw = s.cw := rfl
@[simp] theorem recordFault_fx (f : Fault) : (recordFault f s).fx = s.fx := rfl
@[simp] theorem recordFault_fy (f : Fault) : (recordFault f s).fy = s.fy := rfl
@[simp] theorem recordFault_ph (f : Fault) : (recordFault f s).ph = s.ph := rfl
@[simp] theorem recordFault_sra (f : Fault) : (recordFault f s).sra = s.sra := rfl
@[simp] theorem recordFault_srb (f : Fault) : (recordFault f s).srb = s.srb := rfl
@[simp] theorem recordFault_cnt (f : Fault) : (recordFault f s).cnt = s.cnt := rfl
@[simp] theorem recordFault_phase (f : Fault) : (recordFault f s).phase = s.phase := rfl
@[simp] theorem recordFault_busy (f : Fault) : (recordFault f s).busy = s.busy := rfl
@[simp] theorem recordFault_lines (f : Fault) : (recordFault f s).lines = s.lines := rfl
@[simp] theorem recordFault_trace (f : Fault) : (recordFault f s).trace = s.trace := rfl
@[simp] theorem recordFault_rx (f : Fault) : (recordFault f s).rx = s.rx := rfl
@[simp] theorem recordFault_runRefused (f : Fault) : (recordFault f s).runRefused = s.runRefused := rfl
@[simp] theorem recordFault_stopped (f : Fault) : (recordFault f s).stopped = some f := rfl
@[simp] theorem recordFault_params (f : Fault) : (recordFault f s).params = s.params := rfl
@[simp] theorem recordFault_host (f : Fault) : (recordFault f s).host = s.host := rfl
@[simp] theorem recordFault_answer (f : Fault) : (recordFault f s).answer = s.answer := rfl

/-! ### recordAnswer -/

@[simp] theorem recordAnswer_cw (info : WireInfo) : (recordAnswer info s).cw = s.cw := rfl
@[simp] theorem recordAnswer_fx (info : WireInfo) : (recordAnswer info s).fx = s.fx := rfl
@[simp] theorem recordAnswer_fy (info : WireInfo) : (recordAnswer info s).fy = s.fy := rfl
@[simp] theorem recordAnswer_ph (info : WireInfo) : (recordAnswer info s).ph = s.ph := rfl
@[simp] theorem recordAnswer_sra (info : WireInfo) : (recordAnswer info s).sra = s.sra := rfl
@[simp] theorem recordAnswer_srb (info : WireInfo) : (recordAnswer info s).srb = s.srb := rfl
@[simp] theorem recordAnswer_cnt (info : WireInfo) : (recordAnswer info s).cnt = s.cnt := rfl
@[simp] theorem recordAnswer_phase (info : WireInfo) : (recordAnswer info s).phase = s.phase := rfl
@[simp] theorem recordAnswer_busy (info : WireInfo) : (recordAnswer info s).busy = s.busy := rfl
@[simp] theorem recordAnswer_lines (info : WireInfo) : (recordAnswer info s).lines = s.lines := rfl
@[simp] theorem recordAnswer_trace (info : WireInfo) : (recordAnswer info s).trace = s.trace := rfl
@[simp] theorem recordAnswer_rx (info : WireInfo) : (recordAnswer info s).rx = s.rx := rfl
@[simp] theorem recordAnswer_runRefused (info : WireInfo) : (recordAnswer info s).runRefused = s.runRefused := rfl
@[simp] theorem recordAnswer_stopped (info : WireInfo) : (recordAnswer info s).stopped = s.stopped := rfl
@[simp] theorem recordAnswer_params (info : WireInfo) : (recordAnswer info s).params = s.params := rfl
@[simp] theorem recordAnswer_host (info : WireInfo) : (recordAnswer info s).host = s.host := rfl
@[simp] theorem recordAnswer_answer (info : WireInfo) : (recordAnswer info s).answer = some info := rfl

/-! ### setHost -/

@[simp] theorem setHost_cw (moves : List HostMove) : (setHost moves s).cw = s.cw := rfl
@[simp] theorem setHost_fx (moves : List HostMove) : (setHost moves s).fx = s.fx := rfl
@[simp] theorem setHost_fy (moves : List HostMove) : (setHost moves s).fy = s.fy := rfl
@[simp] theorem setHost_ph (moves : List HostMove) : (setHost moves s).ph = s.ph := rfl
@[simp] theorem setHost_sra (moves : List HostMove) : (setHost moves s).sra = s.sra := rfl
@[simp] theorem setHost_srb (moves : List HostMove) : (setHost moves s).srb = s.srb := rfl
@[simp] theorem setHost_cnt (moves : List HostMove) : (setHost moves s).cnt = s.cnt := rfl
@[simp] theorem setHost_phase (moves : List HostMove) : (setHost moves s).phase = s.phase := rfl
@[simp] theorem setHost_busy (moves : List HostMove) : (setHost moves s).busy = s.busy := rfl
@[simp] theorem setHost_lines (moves : List HostMove) : (setHost moves s).lines = s.lines := rfl
@[simp] theorem setHost_trace (moves : List HostMove) : (setHost moves s).trace = s.trace := rfl
@[simp] theorem setHost_rx (moves : List HostMove) : (setHost moves s).rx = s.rx := rfl
@[simp] theorem setHost_runRefused (moves : List HostMove) : (setHost moves s).runRefused = s.runRefused := rfl
@[simp] theorem setHost_stopped (moves : List HostMove) : (setHost moves s).stopped = s.stopped := rfl
@[simp] theorem setHost_params (moves : List HostMove) : (setHost moves s).params = s.params := rfl
@[simp] theorem setHost_host (moves : List HostMove) : (setHost moves s).host = moves := rfl
@[simp] theorem setHost_answer (moves : List HostMove) : (setHost moves s).answer = s.answer := rfl

/-! ### load -/

@[simp] theorem load_cw (a b : Word) : (load a b s).cw = s.cw := rfl
@[simp] theorem load_fx (a b : Word) : (load a b s).fx = s.fx := rfl
@[simp] theorem load_fy (a b : Word) : (load a b s).fy = s.fy := rfl
@[simp] theorem load_ph (a b : Word) : (load a b s).ph = s.ph := rfl
@[simp] theorem load_sra (a b : Word) : (load a b s).sra = a := rfl
@[simp] theorem load_srb (a b : Word) : (load a b s).srb = b := rfl
@[simp] theorem load_cnt (a b : Word) : (load a b s).cnt = 16#5 := rfl
@[simp] theorem load_phase (a b : Word) : (load a b s).phase = .start := rfl
@[simp] theorem load_busy (a b : Word) : (load a b s).busy = true := rfl
@[simp] theorem load_lines (a b : Word) : (load a b s).lines = s.lines := rfl
@[simp] theorem load_trace (a b : Word) : (load a b s).trace = s.trace := rfl
@[simp] theorem load_rx (a b : Word) : (load a b s).rx = s.rx := rfl
@[simp] theorem load_runRefused (a b : Word) : (load a b s).runRefused = s.runRefused := rfl
@[simp] theorem load_stopped (a b : Word) : (load a b s).stopped = s.stopped := rfl
@[simp] theorem load_params (a b : Word) : (load a b s).params = s.params := rfl
@[simp] theorem load_host (a b : Word) : (load a b s).host = s.host := rfl
@[simp] theorem load_answer (a b : Word) : (load a b s).answer = s.answer := rfl

/-! ### shiftBit -/

@[simp] theorem shiftBit_cw : (shiftBit s).cw = s.cw := rfl
@[simp] theorem shiftBit_fx : (shiftBit s).fx = s.fx := rfl
@[simp] theorem shiftBit_fy : (shiftBit s).fy = s.fy := rfl
@[simp] theorem shiftBit_ph : (shiftBit s).ph = s.ph := rfl
@[simp] theorem shiftBit_sra : (shiftBit s).sra = s.sra <<< 1 := rfl
@[simp] theorem shiftBit_srb : (shiftBit s).srb = s.srb <<< 1 := rfl
@[simp] theorem shiftBit_cnt : (shiftBit s).cnt = s.cnt - 1 := rfl
@[simp] theorem shiftBit_phase : (shiftBit s).phase = s.phase := rfl
@[simp] theorem shiftBit_busy : (shiftBit s).busy = s.busy := rfl
@[simp] theorem shiftBit_lines : (shiftBit s).lines = s.lines := rfl
@[simp] theorem shiftBit_trace : (shiftBit s).trace = s.trace := rfl
@[simp] theorem shiftBit_rx : (shiftBit s).rx = s.rx := rfl
@[simp] theorem shiftBit_runRefused : (shiftBit s).runRefused = s.runRefused := rfl
@[simp] theorem shiftBit_stopped : (shiftBit s).stopped = s.stopped := rfl
@[simp] theorem shiftBit_params : (shiftBit s).params = s.params := rfl
@[simp] theorem shiftBit_host : (shiftBit s).host = s.host := rfl
@[simp] theorem shiftBit_answer : (shiftBit s).answer = s.answer := rfl

/-! ### setPhase -/

@[simp] theorem setPhase_cw (p : EnginePhase) : (setPhase p s).cw = s.cw := rfl
@[simp] theorem setPhase_fx (p : EnginePhase) : (setPhase p s).fx = s.fx := rfl
@[simp] theorem setPhase_fy (p : EnginePhase) : (setPhase p s).fy = s.fy := rfl
@[simp] theorem setPhase_ph (p : EnginePhase) : (setPhase p s).ph = s.ph := rfl
@[simp] theorem setPhase_sra (p : EnginePhase) : (setPhase p s).sra = s.sra := rfl
@[simp] theorem setPhase_srb (p : EnginePhase) : (setPhase p s).srb = s.srb := rfl
@[simp] theorem setPhase_cnt (p : EnginePhase) : (setPhase p s).cnt = s.cnt := rfl
@[simp] theorem setPhase_phase (p : EnginePhase) : (setPhase p s).phase = p := rfl
@[simp] theorem setPhase_busy (p : EnginePhase) : (setPhase p s).busy = s.busy := rfl
@[simp] theorem setPhase_lines (p : EnginePhase) : (setPhase p s).lines = s.lines := rfl
@[simp] theorem setPhase_trace (p : EnginePhase) : (setPhase p s).trace = s.trace := rfl
@[simp] theorem setPhase_rx (p : EnginePhase) : (setPhase p s).rx = s.rx := rfl
@[simp] theorem setPhase_runRefused (p : EnginePhase) : (setPhase p s).runRefused = s.runRefused := rfl
@[simp] theorem setPhase_stopped (p : EnginePhase) : (setPhase p s).stopped = s.stopped := rfl
@[simp] theorem setPhase_params (p : EnginePhase) : (setPhase p s).params = s.params := rfl
@[simp] theorem setPhase_host (p : EnginePhase) : (setPhase p s).host = s.host := rfl
@[simp] theorem setPhase_answer (p : EnginePhase) : (setPhase p s).answer = s.answer := rfl

/-! ### release -/

@[simp] theorem release_cw : (release s).cw = s.cw := rfl
@[simp] theorem release_fx : (release s).fx = s.fx := rfl
@[simp] theorem release_fy : (release s).fy = s.fy := rfl
@[simp] theorem release_ph : (release s).ph = s.ph := rfl
@[simp] theorem release_sra : (release s).sra = s.sra := rfl
@[simp] theorem release_srb : (release s).srb = s.srb := rfl
@[simp] theorem release_cnt : (release s).cnt = s.cnt := rfl
@[simp] theorem release_phase : (release s).phase = .idle := rfl
@[simp] theorem release_busy : (release s).busy = false := rfl
@[simp] theorem release_lines : (release s).lines = s.lines := rfl
@[simp] theorem release_trace : (release s).trace = s.trace := rfl
@[simp] theorem release_rx : (release s).rx = s.rx := rfl
@[simp] theorem release_runRefused : (release s).runRefused = s.runRefused := rfl
@[simp] theorem release_stopped : (release s).stopped = s.stopped := rfl
@[simp] theorem release_params : (release s).params = s.params := rfl
@[simp] theorem release_host : (release s).host = s.host := rfl
@[simp] theorem release_answer : (release s).answer = s.answer := rfl

end Sys2Proof.Machine
end

