-- ==== Sys2Proof/Laws/Ops.lean ====
section
/-! SUPPORT. What each shared operation can do, said once: the receiver, driving a line, a transfer, presenting a
command. -/

namespace Sys2Proof.Machine

open Sys2Proof.Safety

/-! ## Outcomes -/

@[simp] theorem andThen_next (s : State) (f : State → Host.Outcome State Fault Refusal) :
    andThen (.next s) f = f s := rfl
@[simp] theorem andThen_fault (r : Fault) (f : State → Host.Outcome State Fault Refusal) :
    andThen (.fault r) f = .fault r := rfl
@[simp] theorem andThen_refused (r : Refusal) (f : State → Host.Outcome State Fault Refusal) :
    andThen (.refused r) f = .refused r := rfl

/-- A run that is not stopped goes on as it would. -/
theorem unlessStopped_none {s : State} (o : Host.Outcome State Fault Refusal) (h : s.stopped = none) :
    unlessStopped s o = o := by
  simp [unlessStopped, h]

/-- Nothing follows a recorded fault (R190). -/
theorem unlessStopped_some {s : State} (o : Host.Outcome State Fault Refusal) {f : Fault} (h : s.stopped = some f) :
    unlessStopped s o = .fault f := by
  simp [unlessStopped, h]

/-- If there is a next state, the run was not stopped. -/
theorem unlessStopped_eq_next (s : State) (o : Host.Outcome State Fault Refusal) (t : State) :
    unlessStopped s o = .next t ↔ s.stopped = none ∧ o = .next t := by
  cases h : s.stopped <;> simp [unlessStopped, h]

theorem andThen_assoc (o : Host.Outcome State Fault Refusal) (f g : State → Host.Outcome State Fault Refusal) :
    andThen (andThen o f) g = andThen o (fun s => andThen (f s) g) := by
  cases o <;> rfl

/-- If a composed outcome is a next state, both parts were. -/
theorem andThen_eq_next (o : Host.Outcome State Fault Refusal) (f : State → Host.Outcome State Fault Refusal)
    (t : State) : andThen o f = .next t ↔ ∃ s, o = .next s ∧ f s = .next t := by
  cases o <;> simp

/-! ## The receiver -/

theorem observe_opens (l m : Lines) (r : Receiver) (h : l.fsync = true) (h' : m.fsync = false) :
    observe l m r = .ok { r with ba := [], bb := [] } := by
  simp [observe, frameOpens, h, h']

theorem observe_outside (l m : Lines) (r : Receiver) (h : l.fsync = true) (h' : m.fsync = true) :
    observe l m r = .ok r := by
  simp [observe, frameOpens, samplingEdge, frameCloses, h, h']

theorem observe_samples (l m : Lines) (r : Receiver) (h : l.fsync = false) (h' : m.fsync = false)
    (hs : l.sclk = true) (hs' : m.sclk = false) :
    observe l m r = .ok { r with ba := r.ba ++ [m.sdataA], bb := r.bb ++ [m.sdataB] } := by
  simp [observe, frameOpens, samplingEdge, h, h', hs, hs']

theorem observe_quiet (l m : Lines) (r : Receiver) (h : l.fsync = false) (h' : m.fsync = false)
    (hs : l.sclk = false ∨ m.sclk = true) : observe l m r = .ok r := by
  rcases hs with hs | hs <;> simp [observe, frameOpens, samplingEdge, frameCloses, h, h', hs]

theorem observe_closes (l m : Lines) (r : Receiver) (h : l.fsync = false) (h' : m.fsync = true)
    (hl : r.ba.length = 16) :
    observe l m r = .ok { r with rxA := r.rxA ++ [wordOfBits r.ba], rxB := r.rxB ++ [wordOfBits r.bb] } := by
  simp [observe, frameOpens, samplingEdge, frameCloses, h, h', hl, Config.wordBits]

theorem observe_truncated (l m : Lines) (r : Receiver) (h : l.fsync = false) (h' : m.fsync = true)
    (hl : r.ba.length ≠ 16) : observe l m r = .error r.ba.length := by
  simp [observe, frameOpens, samplingEdge, frameCloses, h, h', hl, Config.wordBits]

/-- The receiver faults only when a frame closes with a bit count that is not 16. -/
theorem observe_error (l m : Lines) (r : Receiver) (n : Nat) (h : observe l m r = .error n) :
    l.fsync = false ∧ m.fsync = true ∧ r.ba.length = n ∧ n ≠ 16 := by
  cases hl : l.fsync with
  | true => cases hm : m.fsync <;> simp [observe, frameOpens, samplingEdge, frameCloses, hl, hm] at h
  | false =>
    cases hm : m.fsync with
    | false =>
      simp only [observe, frameOpens, samplingEdge, frameCloses, hl, hm] at h
      by_cases hs : (l.sclk && !m.sclk) = true <;> simp_all
    | true =>
      by_cases hb : r.ba.length = 16
      · rw [observe_closes l m r hl hm hb] at h; cases h
      · rw [observe_truncated l m r hl hm hb] at h
        cases h; exact ⟨rfl, rfl, rfl, hb⟩

/-- The walk over a longer list of micro-steps goes on where the shorter one ended. -/
theorem walk_append (es fs : List LineEvent) (l : Lines) (r : Receiver) :
    walk (es ++ fs) l r = (walk es l r).bind (fun p => walk fs p.1 p.2) := by
  induction es generalizing l r with
  | nil => rfl
  | cons e es ih =>
    simp only [List.cons_append, walk]
    split
    · rw [ih]
    · rfl

/-! ## Driving a line -/

/-- A micro-step moves the lines, TRACE and the receiver, and nothing else. -/
theorem drive_next {e : LineEvent} {s t : State} (h : drive e s = .next t) :
    ∃ r, observe s.lines (applyEvent e s.lines) s.rx = .ok r ∧
      t = { s with lines := applyEvent e s.lines, trace := s.trace ++ [e], rx := r } := by
  unfold drive at h
  split at h
  · rename_i r hr; exact ⟨r, hr, by simpa using h.symm⟩
  · simp at h

/-- A micro-step faults only with TruncatedFrame, when it raises FSYNC after a bit count that is not 16. -/
theorem drive_fault {e : LineEvent} {s : State} {f : Fault} (h : drive e s = .fault f) :
    f = .truncatedFrame s.rx.ba.length ∧ s.lines.fsync = false ∧ e = .fsync true ∧ s.rx.ba.length ≠ 16 := by
  unfold drive at h
  split at h
  · simp at h
  · rename_i n hn
    obtain ⟨h1, h2, h3, h4⟩ := observe_error _ _ _ _ hn
    subst h3
    refine ⟨by simpa using h.symm, h1, ?_, h4⟩
    cases e <;> simp_all [applyEvent]

theorem drive_refused (e : LineEvent) (s : State) (r : Refusal) : drive e s ≠ .refused r := by
  unfold drive; split <;> simp

theorem drive_fsync_low (s : State) (h : s.lines.fsync = true) :
    drive (.fsync false) s = .next { s with
      lines := { s.lines with fsync := false }
      trace := s.trace ++ [.fsync false]
      rx := { s.rx with ba := [], bb := [] } } := by
  simp [drive, applyEvent, observe_opens, h]

theorem drive_fsync_high (s : State) (h : s.lines.fsync = false) (hl : s.rx.ba.length = 16) :
    drive (.fsync true) s = .next { s with
      lines := { s.lines with fsync := true }
      trace := s.trace ++ [.fsync true]
      rx := { s.rx with
        rxA := s.rx.rxA ++ [wordOfBits s.rx.ba]
        rxB := s.rx.rxB ++ [wordOfBits s.rx.bb] } } := by
  simp [drive, applyEvent, observe_closes, h, hl]

theorem drive_data (s : State) (a b : Bool) :
    drive (.data a b) s = .next { s with
      lines := { s.lines with sdataA := a, sdataB := b }
      trace := s.trace ++ [.data a b] } := by
  cases h : s.lines.fsync <;> cases hs : s.lines.sclk <;>
    simp [drive, applyEvent, observe, frameOpens, samplingEdge, frameCloses, h, hs]

theorem drive_sclk_high (s : State) :
    drive (.sclk true) s = .next { s with
      lines := { s.lines with sclk := true }
      trace := s.trace ++ [.sclk true] } := by
  cases h : s.lines.fsync <;>
    simp [drive, applyEvent, observe, frameOpens, samplingEdge, frameCloses, h]

theorem drive_sclk_low (s : State) (h : s.lines.fsync = false) (hs : s.lines.sclk = true) :
    drive (.sclk false) s = .next { s with
      lines := { s.lines with sclk := false }
      trace := s.trace ++ [.sclk false]
      rx := { s.rx with ba := s.rx.ba ++ [s.lines.sdataA], bb := s.rx.bb ++ [s.lines.sdataB] } } := by
  simp [drive, applyEvent, observe_samples, h, hs]

/-! ## A transfer -/

/-- One bit period inside a frame: the receiver gets the top bit of each shift register (R102, R50). -/
theorem bitPeriod_inFrame (s : State) (h : s.lines.fsync = false) :
    bitPeriod s = .next { s with
      lines := ⟨false, false, s.sra.msb, s.srb.msb⟩
      trace := s.trace ++ [.data s.sra.msb s.srb.msb, .sclk true, .sclk false]
      rx := { s.rx with ba := s.rx.ba ++ [s.sra.msb], bb := s.rx.bb ++ [s.srb.msb] }
      sra := s.sra <<< 1
      srb := s.srb <<< 1
      cnt := s.cnt - 1 } := by
  simp [bitPeriod, drive_data, drive_sclk_high, drive_sclk_low, h, shiftBit]

/-- The top `n` bits of a word, first the most significant, as the shift register gives them. -/
def topBits : Nat → Word → List Bool
  | 0, _ => []
  | n + 1, w => w.msb :: topBits n (w <<< 1)

/-- The micro-steps of `n` bit periods that start with the words `a` and `b` in the shift registers. -/
def shiftedEvents : Nat → Word → Word → List LineEvent
  | 0, _, _ => []
  | n + 1, a, b => [.data a.msb b.msb, .sclk true, .sclk false] ++ shiftedEvents n (a <<< 1) (b <<< 1)

/-- The line state after `n` bit periods. -/
def linesAfter : Nat → Word → Word → Lines → Lines
  | 0, _, _, l => l
  | n + 1, a, b, _ => linesAfter n (a <<< 1) (b <<< 1) ⟨false, false, a.msb, b.msb⟩

theorem topBits_length (n : Nat) (w : Word) : (topBits n w).length = n := by
  induction n generalizing w with
  | zero => rfl
  | succ n ih => simp [topBits, ih]

/-- `n` bit periods inside a frame (R100's loop). -/
theorem bitPeriods_inFrame (n : Nat) (s : State) (h : s.lines.fsync = false) :
    bitPeriods n s = .next { s with
      lines := linesAfter n s.sra s.srb s.lines
      trace := s.trace ++ shiftedEvents n s.sra s.srb
      rx := { s.rx with ba := s.rx.ba ++ topBits n s.sra, bb := s.rx.bb ++ topBits n s.srb }
      sra := s.sra <<< n
      srb := s.srb <<< n
      cnt := s.cnt - BitVec.ofNat 5 n } := by
  induction n generalizing s with
  | zero => simp [bitPeriods, shiftedEvents, topBits, linesAfter]
  | succ n ih =>
    rw [bitPeriods, bitPeriod_inFrame s h, andThen_next, ih _ rfl]
    have hc : s.cnt - 1 - BitVec.ofNat 5 n = s.cnt - BitVec.ofNat 5 (n + 1) := by
      rw [BitVec.ofNat_add, BitVec.add_comm, sub_add_eq_sub_sub]; rfl
    simp only [hc]
    simp [shiftedEvents, topBits, linesAfter, ← BitVec.shiftLeft_add, Nat.add_comm 1 n]

theorem wordOfBits_topBits (w : Word) : wordOfBits (topBits 16 w) = w := by
  apply BitVec.eq_of_getLsbD_eq
  intro i hi
  have hb : ∀ (b : Bool) (j : Nat) (hj : j < 16), (if b = true then 1#16 else 0#16)[j] = (b && decide (j = 0)) := by
    intro b j hj; cases b <;> simp [BitVec.getElem_one]
  interval_cases i <;> simp [wordOfBits, topBits, hb, BitVec.msb_eq_getLsbD_last]

theorem shiftedEvents_sixteen (a b : Word) :
    shiftedEvents 16 a b = bitOrder.flatMap (periodEvents a b) := by
  simp [shiftedEvents, bitOrder, periodEvents, BitVec.msb_eq_getLsbD_last]

theorem linesAfter_sixteen (a b : Word) (l : Lines) :
    linesAfter 16 a b l = ⟨false, false, a.getLsbD 0, b.getLsbD 0⟩ := by
  simp [linesAfter, BitVec.msb_eq_getLsbD_last]

/-- The state after `XFER(a, b)`, every field of it. -/
def afterTransfer (a b : Word) (s : State) : State :=
  { s with
    sra := 0
    srb := 0
    cnt := 0
    phase := .idle
    busy := false
    lines := ⟨true, true, a.getLsbD 0, b.getLsbD 0⟩
    trace := s.trace ++ transferEvents a b
    rx := ⟨topBits 16 a, topBits 16 b, s.rx.rxA ++ [a], s.rx.rxB ++ [b]⟩ }

/-- A transfer that starts with FSYNC high completes, and this is all it does (R100, R110). -/
theorem transfer_spec (a b : Word) (s : State) (h : s.lines.fsync = true) :
    transfer a b s = .next (afterTransfer a b s) := by
  have hz : ∀ w : Word, w <<< 16 = 0 := fun w => by simp
  simp only [transfer, Config.wordBits]
  rw [drive_fsync_low _ (by simpa using h), andThen_next, bitPeriods_inFrame _ _ rfl, andThen_next,
    drive_fsync_high _ (by simp [linesAfter_sixteen]) (by simp [topBits_length]), andThen_next, drive_sclk_high,
    andThen_next]
  simp [afterTransfer, release, load, linesAfter_sixteen, shiftedEvents_sixteen, wordOfBits_topBits, hz,
    transferEvents, Config.wordBits]

/-- After a shadow update that leaves the trace and the logs, a transfer has sent its words (R110). -/
theorem sent_afterTransfer (a b : Word) (s s' : State) (ht : s'.trace = s.trace) (hr : s'.rx = s.rx) :
    Sent s (afterTransfer a b s') a b :=
  ⟨rfl, rfl, rfl, rfl, rfl, rfl, by simp [afterTransfer, ht], by simp [afterTransfer, hr], by simp [afterTransfer, hr]⟩

/-! ## Presenting a command -/

theorem present_stopped (k : State → Issue) {s : State} {f : Fault} (h : s.stopped = some f) :
    present k s = .fault f := unlessStopped_some _ h

theorem present_ready (k : State → Issue) (s : State) (h : s.busy = false) (hf : s.stopped = none) :
    present k s = complete (k s) := by
  simp [present, unlessStopped_none, cmdReady, h, hf]

theorem present_busy (k : State → Issue) (s : State) (h : s.busy = true) (hf : s.stopped = none) :
    present k s = microStep s := by
  simp [present, unlessStopped_none, cmdReady, h, hf]

/-- A presented command that sends words completes from a ready state. -/
theorem present_send {k : State → Issue} {s s' : State} {a b : Word} (h : Ready s) (hk : k s = .send s' a b)
    (hl : s'.lines = s.lines) : present k s = .next (afterTransfer a b s') := by
  rw [present_ready k s h.1 h.2.2.2, hk]
  exact transfer_spec a b s' (by rw [hl]; exact h.2.1)

@[simp] theorem complete_send (s : State) (a b : Word) : complete (.send s a b) = transfer a b s := rfl
@[simp] theorem complete_done (s : State) : complete (.done s) = .next s := rfl
@[simp] theorem complete_stop (f : Fault) : complete (.stop f) = .fault f := rfl
@[simp] theorem accept_send (s : State) (a b : Word) : accept (.send s a b) = .next (load a b s) := rfl
@[simp] theorem accept_done (s : State) : accept (.done s) = .next s := rfl
@[simp] theorem accept_stop (f : Fault) : accept (.stop f) = .fault f := rfl

end Sys2Proof.Machine
end

