-- ==== Sys2Proof/Laws/Frame.lean ====
section
/-! SUPPORT. What the engine leaves unchanged in any state, and that what is on the trace and in the logs stays. -/

namespace Sys2Proof.Machine

open Sys2Proof.Safety

/-- What no part of a transfer changes: the shadows, and the fields that are not the block's. What is on TRACE and in the
logs stays there as a prefix. -/
structure Kept (s t : State) : Prop where
  shadows : SameShadows s t
  surroundings : SameSurroundings s t
  trace : s.trace <+: t.trace
  rxA : s.rx.rxA <+: t.rx.rxA
  rxB : s.rx.rxB <+: t.rx.rxB

theorem Kept.refl (s : State) : Kept s s :=
  ⟨⟨rfl, rfl, rfl, rfl⟩, ⟨rfl, rfl, rfl, rfl, rfl⟩, List.prefix_rfl, List.prefix_rfl, List.prefix_rfl⟩

theorem Kept.trans {s t u : State} (h : Kept s t) (k : Kept t u) : Kept s u := by
  obtain ⟨⟨_, _, _, _⟩, ⟨_, _, _, _, _⟩, h1, h2, h3⟩ := h
  obtain ⟨⟨_, _, _, _⟩, ⟨_, _, _, _, _⟩, k1, k2, k3⟩ := k
  exact ⟨⟨by simp_all, by simp_all, by simp_all, by simp_all⟩, ⟨by simp_all, by simp_all, by simp_all, by simp_all, by simp_all⟩,
    h1.trans k1, h2.trans k2, h3.trans k3⟩

/-- An update of the engine's own registers keeps everything else. -/
theorem kept_engine (s : State) (sra srb : Word) (cnt : BitVec 5) (phase : EnginePhase) (busy : Bool) :
    Kept s { s with sra := sra, srb := srb, cnt := cnt, phase := phase, busy := busy } :=
  ⟨⟨rfl, rfl, rfl, rfl⟩, ⟨rfl, rfl, rfl, rfl, rfl⟩, List.prefix_rfl, List.prefix_rfl, List.prefix_rfl⟩

theorem kept_load (a b : Word) (s : State) : Kept s (load a b s) := kept_engine s _ _ _ _ _
theorem kept_shiftBit (s : State) : Kept s (shiftBit s) := kept_engine s _ _ _ _ _
theorem kept_setPhase (p : EnginePhase) (s : State) : Kept s (setPhase p s) := kept_engine s _ _ _ _ _
theorem kept_release (s : State) : Kept s (release s) := kept_engine s _ _ _ _ _

/-- The logs never lose a word in the receiver. -/
theorem observe_prefix {l m : Lines} {r r' : Receiver} (h : observe l m r = .ok r') :
    r.rxA <+: r'.rxA ∧ r.rxB <+: r'.rxB := by
  unfold observe at h
  repeat' split at h
  all_goals first | (cases h; done) | (injection h with h; subst h; exact ⟨by simp, by simp⟩)

theorem kept_drive {e : LineEvent} {s t : State} (h : drive e s = .next t) : Kept s t := by
  obtain ⟨r, hr, rfl⟩ := drive_next h
  obtain ⟨hA, hB⟩ := observe_prefix hr
  exact ⟨⟨rfl, rfl, rfl, rfl⟩, ⟨rfl, rfl, rfl, rfl, rfl⟩, by simp, hA, hB⟩

theorem kept_bitPeriod {s t : State} (h : bitPeriod s = .next t) : Kept s t := by
  simp only [bitPeriod, andThen_eq_next] at h
  obtain ⟨s1, h1, s2, h2, s3, h3, h4⟩ := h
  injection h4 with h4; subst h4
  exact ((kept_drive h1).trans ((kept_drive h2).trans (kept_drive h3))).trans (kept_shiftBit s3)

theorem kept_bitPeriods {n : Nat} {s t : State} (h : bitPeriods n s = .next t) : Kept s t := by
  induction n generalizing s with
  | zero => injection h with h; subst h; exact Kept.refl s
  | succ n ih =>
    rw [bitPeriods, andThen_eq_next] at h
    obtain ⟨s1, h1, h2⟩ := h
    exact (kept_bitPeriod h1).trans (ih h2)

/-- A transfer changes the engine, the lines, TRACE and the receiver, and nothing else, in any state (R101). -/
theorem kept_transfer {a b : Word} {s t : State} (h : transfer a b s = .next t) : Kept s t := by
  simp only [transfer, andThen_eq_next] at h
  obtain ⟨s1, h1, s2, h2, s3, h3, s4, h4, h5⟩ := h
  injection h5 with h5; subst h5
  exact (kept_load a b s).trans ((kept_drive h1).trans ((kept_bitPeriods h2).trans
    ((kept_drive h3).trans ((kept_drive h4).trans (kept_release s4)))))

/-- A micro-step changes the engine, the lines, TRACE and the receiver, and nothing else, in any state (R108). -/
theorem kept_microStep {s t : State} (h : microStep s = .next t) : Kept s t := by
  unfold microStep at h
  split at h
  · injection h with h; subst h; exact Kept.refl s
  all_goals
    rw [andThen_eq_next] at h
    obtain ⟨s1, h1, h2⟩ := h
    refine (kept_drive h1).trans ?_
    first
    | (injection h2 with h2; subst h2; exact kept_engine s1 _ _ _ _ _)
    | (split at h2 <;> (injection h2 with h2; subst h2; exact kept_engine s1 _ _ _ _ _))

/-- A presented command that gives a next state, in a run that was not stopped, was completed or waited for a micro-step. -/
theorem present_next {k : State → Issue} {s t : State} (h : present k s = .next t) :
    s.stopped = none ∧
    ((s.busy = false ∧ complete (k s) = .next t) ∨ (s.busy = true ∧ microStep s = .next t)) := by
  rw [present, unlessStopped_eq_next] at h
  obtain ⟨hf, h⟩ := h
  refine ⟨hf, ?_⟩
  cases hb : s.busy with
  | false => exact .inl ⟨rfl, by simpa [cmdReady, hb] using h⟩
  | true => exact .inr ⟨rfl, by simpa [cmdReady, hb] using h⟩

end Sys2Proof.Machine
end

