-- ==== Sys2Proof/Laws/MicroStep.lean ====
section
/-! SUPPORT. The rows of the shift engine's state machine (40_transfer.md R108), one equation for each. -/

namespace Sys2Proof.Machine

theorem microStep_idle (s : State) (h : s.phase = .idle) : microStep s = .next s := by
  simp [microStep, h]

theorem microStep_start (s : State) (h : s.phase = .start) (hf : s.lines.fsync = true) :
    microStep s = .next { s with
      phase := .data
      lines := { s.lines with fsync := false }
      trace := s.trace ++ [.fsync false]
      rx := { s.rx with ba := [], bb := [] } } := by
  simp [microStep, h, drive_fsync_low s hf, setPhase]

theorem microStep_data (s : State) (h : s.phase = .data) :
    microStep s = .next { s with
      phase := .clkHi
      lines := { s.lines with sdataA := s.sra.msb, sdataB := s.srb.msb }
      trace := s.trace ++ [.data s.sra.msb s.srb.msb] } := by
  simp [microStep, h, drive_data, setPhase]

theorem microStep_clkHi (s : State) (h : s.phase = .clkHi) :
    microStep s = .next { s with
      phase := .clkLo
      lines := { s.lines with sclk := true }
      trace := s.trace ++ [.sclk true] } := by
  simp [microStep, h, drive_sclk_high, setPhase]

theorem microStep_clkLo_more (s : State) (h : s.phase = .clkLo) (hf : s.lines.fsync = false)
    (hs : s.lines.sclk = true) (hc : 1 < s.cnt.toNat) :
    microStep s = .next { s with
      phase := .data
      sra := s.sra <<< 1
      srb := s.srb <<< 1
      cnt := s.cnt - 1
      lines := { s.lines with sclk := false }
      trace := s.trace ++ [.sclk false]
      rx := { s.rx with ba := s.rx.ba ++ [s.lines.sdataA], bb := s.rx.bb ++ [s.lines.sdataB] } } := by
  simp [microStep, h, drive_sclk_low s hf hs, setPhase, shiftBit, hc]

theorem microStep_clkLo_last (s : State) (h : s.phase = .clkLo) (hf : s.lines.fsync = false)
    (hs : s.lines.sclk = true) (hc : ¬ 1 < s.cnt.toNat) :
    microStep s = .next { s with
      phase := .stop
      sra := s.sra <<< 1
      srb := s.srb <<< 1
      cnt := 0
      lines := { s.lines with sclk := false }
      trace := s.trace ++ [.sclk false]
      rx := { s.rx with ba := s.rx.ba ++ [s.lines.sdataA], bb := s.rx.bb ++ [s.lines.sdataB] } } := by
  simp [microStep, h, drive_sclk_low s hf hs, setPhase, shiftBit, hc]

theorem microStep_stop (s : State) (h : s.phase = .stop) (hf : s.lines.fsync = false) (hl : s.rx.ba.length = 16) :
    microStep s = .next { s with
      phase := .park
      lines := { s.lines with fsync := true }
      trace := s.trace ++ [.fsync true]
      rx := { s.rx with
        rxA := s.rx.rxA ++ [wordOfBits s.rx.ba]
        rxB := s.rx.rxB ++ [wordOfBits s.rx.bb] } } := by
  simp [microStep, h, drive_fsync_high s hf hl, setPhase]

theorem microStep_park (s : State) (h : s.phase = .park) :
    microStep s = .next { s with
      phase := .idle
      busy := false
      lines := { s.lines with sclk := true }
      trace := s.trace ++ [.sclk true] } := by
  simp [microStep, h, drive_sclk_high, release]

end Sys2Proof.Machine
end

