-- ==== Sys2Proof/Laws/PerInstr.lean ====
section
/-! SUPPORT. The statements made for each constructor of Instr. -/

namespace Sys2Proof.Laws.EncodesInRow

open Sys2Proof

/-- An encoded word lies under the mask and match of a command row. -/
def InCommandRow (r : Row 35) (e : Encoded) : Prop := ∃ c, e = .command c ∧ rowHits r c = true

/-- An encoded word lies under the mask and match of a wire row. -/
def InWireRow (r : Row 16) (e : Encoded) : Prop := ∃ w, e = .wire w ∧ rowHits r w = true

/-- The word of a well-formed instruction lies in its own row of spec/opcode_table.json. -/
def Statement (i : Instr) : Prop :=
  i.wellFormed = true →
    match i with
    | .xfer _ _ => InCommandRow rowXfer (encode i)
    | .setReset _ => InCommandRow rowSetReset (encode i)
    | .setRange _ => InCommandRow rowSetRange (encode i)
    | .setFreq _ => InCommandRow rowSetFreq (encode i)
    | .setAxisFreq _ _ => InCommandRow rowSetAxisFreq (encode i)
    | .setPhase _ => InCommandRow rowSetPhase (encode i)
    | .setShape _ => InCommandRow rowSetShape (encode i)
    | .reserved7 _ => InCommandRow rowReserved7 (encode i)
    | .ctrl _ _ _ _ => InWireRow rowCtrl (encode i)
    | .freq _ => InWireRow rowFreq (encode i)
    | .phase _ => InWireRow rowPhase (encode i)
    | .tag10 _ => InWireRow rowTag10 (encode i)

/-- A row whose mask is the operation field alone matches by the operation field. -/
theorem inRow_op (op : BitVec 3) (a b : Word) (r : Row 35)
    (hr : r = ⟨cmdWord 7 0 0, cmdWord op 0 0⟩) : InCommandRow r (.command (cmdWord op a b)) := by
  subst hr
  exact ⟨_, rfl, (rowHits_cmdWord _ _ _ _ _ _ _ _ _).2 ⟨by revert op; decide, by simp, by simp⟩⟩

/-- A row whose mask is the operation field and `b` matches by both. -/
theorem inRow_op_b (op : BitVec 3) (a : Word) (r : Row 35)
    (hr : r = ⟨cmdWord 7 0 0xFFFF, cmdWord op 0 0⟩) : InCommandRow r (.command (cmdWord op a 0)) := by
  subst hr
  exact ⟨_, rfl, (rowHits_cmdWord _ _ _ _ _ _ _ _ _).2 ⟨by revert op; decide, by simp, by simp⟩⟩

theorem xfer (a b : Word) : Statement (.xfer a b) := fun _ => inRow_op 0 a b _ (by decide)

theorem setReset (en : Bool) : Statement (.setReset en) := fun _ => ⟨_, rfl, by cases en <;> decide⟩

theorem setRange (hi : Bool) : Statement (.setRange hi) := fun _ => ⟨_, rfl, by cases hi <;> decide⟩

theorem setFreq (v : Nat) : Statement (.setFreq v) :=
  fun _ => inRow_op_b 3 (BitVec.ofNat 16 v) _ (by decide)

theorem setAxisFreq (x y : Nat) : Statement (.setAxisFreq x y) :=
  fun _ => inRow_op 4 (BitVec.ofNat 16 x) (BitVec.ofNat 16 y) _ (by decide)

theorem setPhase (v : Nat) : Statement (.setPhase v) :=
  fun _ => inRow_op_b 5 (BitVec.ofNat 16 v) _ (by decide)

theorem setShape (code : Nat) : Statement (.setShape code) := by
  intro h
  have hc : code < 4 := by simpa [Instr.wellFormed, shapeFits] using h
  refine ⟨_, rfl, ?_⟩
  interval_cases code <;> decide

theorem reserved7 (u : BitVec 32) : Statement (.reserved7 u) :=
  fun _ => inRow_op 7 (u.extractLsb' 16 16) (u.extractLsb' 0 16) _ (by decide)

theorem ctrl (half reset shapeHi shapeLo : Bool) : Statement (.ctrl half reset shapeHi shapeLo) :=
  fun _ => ⟨_, rfl, by cases half <;> cases reset <;> cases shapeHi <;> cases shapeLo <;> decide⟩

theorem freq (f : BitVec 14) : Statement (.freq f) := by
  refine fun _ => ⟨_, rfl, ?_⟩
  have h : (freqFormat f &&& 0xC000#16) = 0x4000#16 := by
    apply BitVec.eq_of_getLsbD_eq
    intro i hi
    simp only [BitVec.getLsbD_and, freqFormat_getLsbD]
    interval_cases i <;> simp
  exact beq_iff_eq.2 h

theorem phase (p : BitVec 12) : Statement (.phase p) := by
  refine fun _ => ⟨_, rfl, ?_⟩
  have h : (phaseFormat p &&& 0xF000#16) = 0xC000#16 := by
    apply BitVec.eq_of_getLsbD_eq
    intro i hi
    simp only [BitVec.getLsbD_and, phaseFormat_getLsbD]
    interval_cases i <;> simp
  exact beq_iff_eq.2 h

theorem tag10 (u : BitVec 14) : Statement (.tag10 u) := by
  refine fun _ => ⟨_, rfl, ?_⟩
  have h : (tag10Format u &&& 0xC000#16) = 0x8000#16 := by
    apply BitVec.eq_of_getLsbD_eq
    intro i hi
    simp only [BitVec.getLsbD_and, tag10Format_getLsbD]
    interval_cases i <;> simp
  exact beq_iff_eq.2 h

end Sys2Proof.Laws.EncodesInRow
end

