-- ==== Sys2Proof/Laws/Step.lean ====
section
/-! SUPPORT. What an instruction and a step can do, said once. -/

namespace Sys2Proof.Machine

open Sys2Proof.Safety

/-! ## What an accepted instruction asks for -/

/-- An update of the shadows, the mark and the answer alone: the engine, the lines, TRACE, the receiver, the parameters
and the host's moves are as they were. -/
structure EngineUntouched (s t : State) : Prop where
  sra : t.sra = s.sra
  srb : t.srb = s.srb
  cnt : t.cnt = s.cnt
  phase : t.phase = s.phase
  busy : t.busy = s.busy
  lines : t.lines = s.lines
  trace : t.trace = s.trace
  rx : t.rx = s.rx
  params : t.params = s.params
  host : t.host = s.host
  stopped : t.stopped = s.stopped

/-- No instruction touches the engine before its transfer starts (R57). -/
theorem issue_send {i : Instr} {s s' : State} {a b : Word} (h : issue i s = .send s' a b) : EngineUntouched s s' := by
  cases i with
  | setShape code =>
    simp only [issue, issueSetShape] at h
    split at h
    · cases h; constructor <;> rfl
    · cases h
  | _ => first | (cases h; done) | (cases h; constructor <;> rfl)

/-- An instruction that sends nothing only marks the run or records an answer. -/
theorem issue_done {i : Instr} {s s' : State} (h : issue i s = .done s') :
    s' = markRefused s ∨ ∃ info, s' = recordAnswer info s := by
  cases i with
  | setShape code =>
    simp only [issue, issueSetShape] at h
    split at h <;> cases h
  | reserved7 u => cases h; exact .inl rfl
  | _ => first | (cases h; done) | (cases h; exact .inr ⟨_, rfl⟩)

/-- Only SETSHAPE can stop, and only with a code outside the closed set (R153). -/
theorem issue_stop {i : Instr} {s : State} {f : Fault} (h : issue i s = .stop f) :
    ∃ code, i = .setShape code ∧ f = .illegalShape code ∧ shapeOfCode code = none := by
  cases i with
  | setShape code =>
    simp only [issue, issueSetShape] at h
    split at h
    · cases h
    · rename_i hn; cases h; exact ⟨code, rfl, rfl, hn⟩
  | _ => cases h

theorem shapeOfCode_none {code : Nat} : shapeOfCode code = none ↔ 3 ≤ code := by
  match code with
  | 0 => simp [shapeOfCode]
  | 1 => simp [shapeOfCode]
  | 2 => simp [shapeOfCode]
  | n + 3 => simp [shapeOfCode]

/-! ## What an instruction does -/

/-- A command is presented to the port. -/
theorem exec_command {i : Instr} (s : State) (h : i.isOperation = true ∨ ∃ u, i = .reserved7 u) :
    exec i s = present (issue i) s := by
  cases i <;> first | rfl | (rcases h with h | ⟨_, h⟩ <;> cases h)

/-- A wire word is read at once. -/
theorem exec_wire {i : Instr} (s : State) (h : i.isOperation = false) (h' : ∀ u, i ≠ .reserved7 u) :
    exec i s = unlessStopped s (complete (issue i s)) := by
  cases i <;> first | rfl | (cases h; done) | exact absurd rfl (h' _)

/-- No instruction runs in a stopped run (R190). -/
theorem exec_stopped (i : Instr) {s : State} {f : Fault} (h : s.stopped = some f) : exec i s = .fault f := by
  by_cases hc : i.isOperation = true ∨ ∃ u, i = .reserved7 u
  · rw [exec_command s hc, present_stopped _ h]
  · rw [exec_wire s (by simpa using fun k => hc (.inl k)) (fun u k => hc (.inr ⟨u, k⟩)), unlessStopped_some _ h]

/-- If an instruction gives a next state, the run was not stopped and the state is that of the micro-step it waits for or of
its own effect. -/
theorem exec_next {i : Instr} {s t : State} (h : exec i s = .next t) :
    s.stopped = none ∧
    ((s.busy = true ∧ microStep s = .next t) ∨
    (∃ s' a b, s.busy = false ∧ issue i s = .send s' a b ∧ transfer a b s' = .next t) ∨
    (∃ s', issue i s = .done s' ∧ t = s')) := by
  by_cases hc : i.isOperation = true ∨ ∃ u, i = .reserved7 u
  · rw [exec_command s hc] at h
    obtain ⟨hf, ⟨hb, h⟩ | ⟨hb, h⟩⟩ := present_next h
    · refine ⟨hf, ?_⟩
      cases hi : issue i s with
      | send s' a b => rw [hi] at h; exact .inr (.inl ⟨s', a, b, hb, rfl, h⟩)
      | done s' => rw [hi] at h; cases h; exact .inr (.inr ⟨_, rfl, rfl⟩)
      | stop f => rw [hi] at h; cases h
    · exact ⟨hf, .inl ⟨hb, h⟩⟩
  · have hw : i.isOperation = false := by simpa using fun k => hc (.inl k)
    have hr : ∀ u, i ≠ .reserved7 u := fun u k => hc (.inr ⟨u, k⟩)
    rw [exec_wire s hw hr, unlessStopped_eq_next] at h
    obtain ⟨hf, h⟩ := h
    refine ⟨hf, ?_⟩
    cases hi : issue i s with
    | send s' a b => cases i <;> contradiction
    | done s' => rw [hi] at h; cases h; exact .inr (.inr ⟨_, rfl, rfl⟩)
    | stop f => rw [hi] at h; cases h

/-! ## What a step does -/

/-- The ways a step reaches a next state, from the state whose host moves are the ones left: a micro-step, an instruction
run to completion, an instruction accepted at a tick, an answer recorded, or `rst`, outside a frame or in one. -/
inductive StepTo (s t : State) : Prop where
  | micro (h : microStep s = .next t)
  | run (i : Instr) (h : exec i s = .next t)
  | accepted (i : Instr) (hb : s.busy = false) (h : accept (issue i s) = .next t)
  | answered (info : WireInfo) (h : t = recordAnswer info s)
  | restarted (r : Receiver) (hv : rstVerdict s = .ok r) (h : t = afterRst s)
  | truncated (n : Nat) (hv : rstVerdict s = .error n) (h : t = recordFault (.truncatedFrame n) (afterRst s))

theorem issueReserved_eq (u : BitVec 32) (s : State) : issueReserved s = issue (.reserved7 u) s := rfl

theorem tick_next {pins : PortIn} {s t : State} (h : tick pins s = .next t) : s.stopped = none ∧ StepTo s t := by
  rw [tick, unlessStopped_eq_next] at h
  obtain ⟨hf, h⟩ := h
  refine ⟨hf, ?_⟩
  split at h
  · unfold rstTick at h
    split at h
    · rename_i r hr; cases h; exact .restarted r hr rfl
    · rename_i n hn; cases h; exact .truncated n hn rfl
  · split at h
    · rename_i hv
      have hb : s.busy = false := by
        rw [Bool.and_eq_true] at hv
        simpa [cmdReady] using hv.2
      unfold acceptTick at h
      split at h
      · rename_i i _; exact .accepted i hb h
      · exact .accepted (.reserved7 0) hb h
    · exact .micro h

/-- No step is made in a stopped run, whatever the host's move is (R190). -/
theorem step_stopped {s : State} {f : Fault} (h : s.stopped = some f) : step s = .fault f := unlessStopped_some _ h

/-- A step of a run that is not stopped is the host's next move. -/
theorem step_running {s : State} (h : s.stopped = none) : step s = runMove s.host s := unlessStopped_none _ h

/-- If a step gives a next state, the run was not stopped and it took one of the six ways, from the state with the moves left
to the host. -/
theorem step_next {s t : State} (h : step s = .next t) : s.stopped = none ∧ ∃ rest, StepTo (setHost rest s) t := by
  rw [step, runMoves, unlessStopped_eq_next] at h
  obtain ⟨hf, h⟩ := h
  refine ⟨hf, ?_⟩
  unfold runMove at h
  split at h
  · rename_i hh; exact ⟨[], by rw [← hh]; exact .micro h⟩
  · rename_i c rest hh
    unfold runCommand at h
    split at h
    · rename_i hr
      refine ⟨rest, ?_⟩
      split at h
      · rename_i i _; exact .run i h
      · refine .run (.reserved7 0) ?_
        rw [exec_command _ (.inr ⟨_, rfl⟩), present_ready _ (setHost rest s) (by simpa [cmdReady] using hr) hf]
        exact h
    · exact ⟨s.host, .micro h⟩
  · exact ⟨_, (tick_next h).2⟩
  · rename_i w rest hh
    refine ⟨rest, ?_⟩
    unfold runWire at h
    split at h
    · rename_i i _; exact .run i h
    · rw [readWord, unlessStopped_eq_next] at h
      cases h.2; exact .answered _ rfl
  · cases h

end Sys2Proof.Machine
end

