-- ==== Sys2Proof/Tests/Slice0.lean ====
section
/-! SUPPORT. Small tests, their expected results taken from spec/95_test_vectors.md (the vector is named in each
comment), and one witness for every statement that has hypotheses. -/

namespace Sys2Proof.Tests

open Sys2Proof.Machine Sys2Proof.Safety

/-! ## WellFormed: an ill-formed term for each check -/

theorem test_operandFits_refuses : (Instr.setFreq 0x10000).wellFormed = false := by decide
theorem test_operandFits_refuses_x : (Instr.setAxisFreq 0x10000 0).wellFormed = false := by decide
theorem test_operandFits_refuses_y : (Instr.setAxisFreq 0 0x10000).wellFormed = false := by decide
theorem test_operandFits_refuses_phase : (Instr.setPhase 0x10000).wellFormed = false := by decide
theorem test_shapeFits_refuses : (Instr.setShape 4).wellFormed = false := by decide
theorem test_wellFormed_accepts : (Instr.setAxisFreq 0xFFFF 0xFFFF).wellFormed = true := by decide

/-! ## Decoding: every constructor from a word written out from its encoding (30_encoding.md R71 to R74, R88) -/

/-- CMD-1, V2: op 000, a 0xA5C3, b 0x6E23. -/
theorem test_decode_xfer : decodeTableWord 40 0b00010100101110000110110111000100011 = some (.xfer 0xA5C3 0x6E23) := by
  decide
/-- CMD-1: op 001, a[0] = 1. -/
theorem test_decode_setReset : decodeTableWord 40 0b00100000000000000010000000000000000 = some (.setReset true) := by
  decide
/-- CMD-1: op 010, a[0] = 1. -/
theorem test_decode_setRange : decodeTableWord 40 0b01000000000000000010000000000000000 = some (.setRange true) := by
  decide
/-- F-1: op 011, a 0x8000. -/
theorem test_decode_setFreq : decodeTableWord 40 0b01110000000000000000000000000000000 = some (.setFreq 0x8000) := by
  decide
/-- F-2: op 100, a 0x1000, b 0x2000. -/
theorem test_decode_setAxisFreq :
    decodeTableWord 40 0b10000010000000000000010000000000000 = some (.setAxisFreq 0x1000 0x2000) := by decide
/-- F-3: op 101, a 0x0ABC. -/
theorem test_decode_setPhase : decodeTableWord 40 0b10100001010101111000000000000000000 = some (.setPhase 0x0ABC) := by
  decide
/-- CMD-1: op 110, a[1:0] = 3, decoded although it faults. -/
theorem test_decode_setShape : decodeTableWord 40 0b11000000000000000110000000000000000 = some (.setShape 3) := by decide
/-- CMD-1: op 111. -/
theorem test_decode_reserved7 :
    decodeTableWord 40 0b11100000000000000000000000000000001 = some (.reserved7 1) := by decide
/-- DEC-1: 0x1002, pattern 000h000r00q000m0. -/
theorem test_decode_ctrl : decodeTableWord 16 0b0001000000000010 = some (.ctrl true false false true) := by decide
/-- DEC-1: 0x6E24, pattern 01ffffffffffffff. -/
theorem test_decode_freq : decodeTableWord 16 0b0110111000100100 = some (.freq 0x2E24) := by decide
/-- DEC-1: 0xCFFF, pattern 1100pppppppppppp. -/
theorem test_decode_phase : decodeTableWord 16 0b1100111111111111 = some (.phase 0xFFF) := by decide
/-- DEC-1: 0x8000, pattern 10uuuuuuuuuuuuuu. -/
theorem test_decode_tag10 : decodeTableWord 16 0b1000000000000000 = some (.tag10 0) := by decide

/-- R90: the listing lines of SETRESET 1 and SETSHAPE 2. -/
theorem test_listing : listing (.setReset true) = some "SETRESET 1" ∧ listing (.setShape 2) = some "SETSHAPE 2" := by
  decide
/-- CMD-1: XFER is reserved while it is not exposed. -/
theorem test_decode_xfer_hidden : decodeCmd false 0x000200020 = .error .xferNotExposed := by rfl
/-- CMD-1: an unused operand bit makes the word reserved. -/
theorem test_decode_operand_bit : decodeCmd true 0x210000000 = .error .operandBits := by rfl
/-- CMD-1: `op` 7 is reserved. -/
theorem test_decode_op_seven : decodeCmd true 0x700000000 = .error .opSeven := by rfl
/-- DEC-1: 0x3FFF has reserved bits and both shape bits; the reserved bits are looked at first. -/
theorem test_decodeWord_reserved_first : decodeWord 0x3FFF = .notEmitted .reservedBitsSet := by decide
/-- DEC-1: 0xD000 matches no wire row and is answered all the same. -/
theorem test_decodeWord_no_row : decodeWord 0xD000 = .notEmitted .reservedBitsSet := by decide

/-! ## Instructions -/

/-- What a run shows: the shadows, the two logs and the line state. -/
def seen (o : Host.Outcome State Fault Refusal) : Option ((Word × Word × Word × BitVec 12) × (List Word × List Word) × Lines) :=
  (stateOf o).map fun t => ((t.cw, t.fx, t.fy, t.ph), (t.rx.rxA, t.rx.rxB), t.lines)

/-- The reset state with another control word. -/
def withCw (w : Word) : State := setCw w State.reset

/-- V2: two different words. -/
theorem test_xfer_words : seen (exec (.xfer 0xA5C3 0x6E23) State.reset) =
    some ((0x0000, 0x69F1, 0x69F1, 0x400), ([0xA5C3], [0x6E23]), ⟨true, true, true, true⟩) := by decide
/-- V1: the trace has 51 micro-steps, the 32nd is DATA(1, 1) and its two neighbours clear and set the clock. -/
theorem test_xfer_trace : (stateOf (exec (.xfer 0x0020 0x0020) State.reset)).map
    (fun t => (t.trace.length, (t.trace.drop 30).take 3)) =
    some (51, [.sclk false, .data true true, .sclk true]) := by decide
/-- CW-1: 0x1020 with SETRESET 1. -/
theorem test_setReset : seen (exec (.setReset true) (withCw 0x1020)) =
    some ((0x1120, 0x69F1, 0x69F1, 0x400), ([0x1120], [0x1120]), ⟨true, true, false, false⟩) := by decide
/-- CW-1: 0x0102 with SETRESET 0. -/
theorem test_setReset_off : seen (exec (.setReset false) (withCw 0x0102)) =
    some ((0x0002, 0x69F1, 0x69F1, 0x400), ([0x0002], [0x0002]), ⟨true, true, false, false⟩) := by decide
/-- CW-1: 0x0102 with SETRANGE 1. -/
theorem test_setRange : seen (exec (.setRange true) (withCw 0x0102)) =
    some ((0x1102, 0x69F1, 0x69F1, 0x400), ([0x1102], [0x1102]), ⟨true, true, false, false⟩) := by decide
/-- CW-1: 0x1120 with SETRANGE 0. -/
theorem test_setRange_off : seen (exec (.setRange false) (withCw 0x1120)) =
    some ((0x0120, 0x69F1, 0x69F1, 0x400), ([0x0120], [0x0120]), ⟨true, true, false, false⟩) := by decide
/-- S7: SETFREQ 0x3000. -/
theorem test_setFreq : seen (exec (.setFreq 0x3000) State.reset) =
    some ((0x0000, 0x6E23, 0x6E23, 0x400), ([0x6E23], [0x6E23]), ⟨true, true, true, true⟩) := by decide
/-- F-1, below the table: an operand wider than 16 bits is clamped before it is truncated. -/
theorem test_setFreq_wide : seen (exec (.setFreq 0x10000) State.reset) =
    some ((0x0000, 0x6E23, 0x6E23, 0x400), ([0x6E23], [0x6E23]), ⟨true, true, true, true⟩) := by decide
/-- F-2: each operand is clamped on its own and no shadow changes. -/
theorem test_setAxisFreq : seen (exec (.setAxisFreq 0x3000 0x0010) State.reset) =
    some ((0x0000, 0x69F1, 0x69F1, 0x400), ([0x6E23], [0x4010]), ⟨true, true, true, false⟩) := by decide
/-- S8: SETPHASE 0x1500. -/
theorem test_setPhase : seen (exec (.setPhase 0x1500) State.reset) =
    some ((0x0000, 0x69F1, 0x69F1, 0xFFF), ([0xC000], [0xCFFF]), ⟨true, true, false, true⟩) := by decide
/-- F-3: SETPHASE 0x0ABC. -/
theorem test_setPhase_below : seen (exec (.setPhase 0x0ABC) State.reset) =
    some ((0x0000, 0x69F1, 0x69F1, 0xABC), ([0xC000], [0xCABC]), ⟨true, true, false, false⟩) := by decide
/-- CW-1: 0x1120 with SETSHAPE 1. -/
theorem test_setShape : seen (exec (.setShape 1) (withCw 0x1120)) =
    some ((0x1102, 0x69F1, 0x69F1, 0x400), ([0x1102], [0x1102]), ⟨true, true, false, false⟩) := by decide
/-- CW-2: SETSHAPE 3 faults. -/
theorem test_setShape_fault : faultOf (exec (.setShape 3) State.reset) = some (.illegalShape 3) := by decide
/-- P6, tick 0: a reserved word changes nothing but the mark. -/
theorem test_reserved7 : stateOf (exec (.reserved7 0) State.reset) = some { State.reset with runRefused := true } := by
  decide
/-- DEC-1: 0x1122 has both shape bits. -/
theorem test_ctrl_unreachable : (stateOf (exec (.ctrl true true true true) State.reset)).map State.answer =
    some (some (.notEmitted .unreachableShape)) := by decide
/-- DEC-1: 0x1120. -/
theorem test_ctrl : (stateOf (exec (.ctrl true true true false) State.reset)).map State.answer =
    some (some (.ctrl ⟨true, true, .square⟩)) := by decide
/-- DEC-1: 0x6E24 is above FMAX. -/
theorem test_freq_above : (stateOf (exec (.freq 0x2E24) State.reset)).map State.answer =
    some (some (.notEmitted .aboveFmax)) := by decide
/-- DEC-1: 0x6E23. -/
theorem test_freq_limit : (stateOf (exec (.freq 0x2E23) State.reset)).map State.answer = some (some (.freq 0x2E23)) := by
  decide
/-- DEC-1: 0xC400. -/
theorem test_phase : (stateOf (exec (.phase 0x400) State.reset)).map State.answer = some (some (.phase 0x400)) := by
  decide
/-- DEC-1: 0xBFFF. -/
theorem test_tag10 : (stateOf (exec (.tag10 0x3FFF) State.reset)).map State.answer = some (some (.tag10 0x3FFF)) := by
  decide

/-! ## The step, the port and rst -/

/-- XFER's word as the first instruction after reset. -/
theorem test_step_xfer : seen (step (State.reset.withFetchWord 40 0x000200020)) =
    some ((0x0000, 0x69F1, 0x69F1, 0x400), ([0x0020], [0x0020]), ⟨true, true, false, false⟩) := by decide
/-- S9, first command. -/
theorem test_step_setShape : seen (step (State.reset.withFetchWord 40 0x600020000)) =
    some ((0x0020, 0x69F1, 0x69F1, 0x400), ([0x0020], [0x0020]), ⟨true, true, false, false⟩) := by decide
/-- CMD-1: a reserved word that is not `op` 7 is dropped. -/
theorem test_step_reserved : stateOf (step { State.reset with host := [.command 0x100020000] }) =
    some { State.reset with runRefused := true } := by decide
/-- DEC-1: a wire word that matches no row is answered. -/
theorem test_step_wire : (stateOf (step { State.reset with host := [.wire 0xFFFF] })).map State.answer =
    some (some (.notEmitted .reservedBitsSet)) := by decide
/-- P6, tick 1: the shadows are updated at acceptance and BUSY rises. -/
theorem test_tick_accepts : (stateOf (tick (presents 0x330000000) State.reset)).map
    (fun t => (t.fx, t.busy, t.phase, t.trace)) = some (0x6E23, true, .start, []) := by decide

/-- A transfer of 0xA5C3 and 0x6E23 (V2) about to perform a micro-step, with the receiver's bits given. -/
def inTransfer (p : EnginePhase) (cnt : BitVec 5) (fsync sclk : Bool) (ba bb : List Bool) : State :=
  { State.reset with
    phase := p, busy := true, cnt := cnt, sra := 0xA5C3, srb := 0x6E23
    lines := ⟨fsync, sclk, false, false⟩
    rx := ⟨ba, bb, [], []⟩ }

/-- The bits of 0xA5C3 and 0x6E23 in the order they are sent (V2). -/
def bitsA5C3 : List Bool :=
  [true, false, true, false, false, true, false, true, true, true, false, false, false, false, true, true]
def bits6E23 : List Bool :=
  [false, true, true, false, true, true, true, false, false, false, true, false, false, false, true, true]

/-- The pins of a tick with `rst`. -/
def rstPins : PortIn := ⟨true, true, 0x330000000⟩

/-- V6: `rst` instead of micro-step 20 records the fault and resets the shadows. -/
theorem test_rst_truncates :
    (stateOf (tick rstPins
      { inTransfer .data 10 false false (bitsA5C3.take 6) (bits6E23.take 6) with cw := 0x1120 })).map
      (fun t => (t.stopped, t.cw, t.busy)) = some (some (.truncatedFrame 6), 0x0000, false) := by decide
/-- V6: `rst` instead of micro-step 50 delivers both words and faults not. -/
theorem test_rst_in_stop : (rstVerdict (inTransfer .stop 0 false false bitsA5C3 bits6E23)).toOption.map
    (fun r => (r.rxA, r.rxB)) = some ([0xA5C3], [0x6E23]) := by decide
/-- R167: a frequency word after SETRANGE 1 is for the upper half (P1, position 3). -/
theorem test_halfAt : halfAt [0x0100, 0x1100, 0x4000, 0x0100, 0x69F1] 2 = some true := by decide

/-! ## Witnesses: a case that meets the hypotheses of each statement -/

theorem ready_reset : Ready State.reset := ⟨rfl, rfl, rfl, rfl⟩

/-- The busy state right after a command was accepted. -/
def busyState : State := inTransfer .start 16 true true [] []

theorem witness_DecodeUndoesEncode : (Instr.setAxisFreq 0xFFFF 0xFFFF).wellFormed = true ∧
    (Instr.setShape 3).wellFormed = true ∧ ∀ a b, Instr.setShape 3 ≠ .xfer a b := ⟨by decide, by decide, by simp⟩
theorem witness_EncodeUndoesDecode : decode false (.command 0x410002000) = .ok (.setAxisFreq 0x1000 0x2000) ∧
    decode true (.command 0x0A5C36E23) = .ok (.xfer 0xA5C3 0x6E23) ∧
    decode false (.wire 0x1120) = .ok (.ctrl true true true false) := ⟨rfl, rfl, rfl⟩
theorem witness_ReservedCommandWords : cmdOp 0x600030000 = 6 ∧ cmdA 0x600030000 = 3 ∧ cmdB 0x600030000 = 0 ∧
    cmdOp 0x7FFFFFFFF = 7 ∧ cmdOp 0x000200020 = 0 ∧
    (cmdOp 0x100020000 = 1 ∧ cmdA 0x100020000 &&& 0xFFFE ≠ 0) ∧ (cmdOp 0x330000001 = 3 ∧ cmdB 0x330000001 ≠ 0) ∧
    (cmdOp 0x600040000 = 6 ∧ cmdA 0x600040000 &&& 0xFFFC ≠ 0) := by decide
theorem witness_DecodeCtrlIsExact : decodeCtrl 0x1120 = .ok ⟨true, true, .square⟩ := by rfl
theorem witness_DecodeFreqAndPhaseAreExact : classify 0x6E23 = .freq ∧ classify 0x6E24 = .freq ∧
    classify 0xCFFF = .phase ∧ classify 0xD000 = .phase ∧ (0x2E23#14).toNat ≤ Config.fmax := by decide
theorem witness_DecodeWordNamesTheEmittedSet : Emitted 0x1120 ∧ Emitted 0x6E23 ∧ Emitted 0xCFFF :=
  ⟨.inl (by decide), .inr (.inl ⟨by decide, by decide⟩), .inr (.inr ⟨by decide, by decide⟩)⟩
theorem witness_RoundTripLaws : (0x1120 : Word) ∈ controlWords ∧ (0x2E23#14).toNat ≤ Config.fmax ∧
    LegalFreq 0x6E23 ∧ LegalPhase 0xCFFF := ⟨by decide, by decide, ⟨by decide, by decide⟩, by decide, by decide⟩
theorem witness_ClampAndTagLaws : (0x2E23 ≤ Config.fmax ∧ Config.fmax < 0x2E24) ∧
    (0x0FFF ≤ Config.pmax ∧ Config.pmax < 0x1000) := by decide
theorem witness_MaskUpdateLaws : Config.maskReset.getLsbD 8 = true ∧ Config.maskReset.getLsbD 7 = false := by decide
theorem witness_XferSendsBothWords : Ready State.reset := ready_reset
theorem witness_EachChipReceivesItsWord : Ready State.reset ∧ State.reset.lines.fsync = true ∧
    State.reset.lines.sclk = true := ⟨ready_reset, rfl, rfl⟩
theorem witness_SixteenPulsesInOneFrame : Ready State.reset := ready_reset
theorem witness_SetResetWritesBitEight : Ready (withCw 0x1020) := ⟨rfl, rfl, rfl, rfl⟩
theorem witness_SetRangeWritesBitTwelve : Ready (withCw 0x0102) := ⟨rfl, rfl, rfl, rfl⟩
theorem witness_SetFreqStoresAndSends : Ready State.reset := ready_reset
theorem witness_SetAxisFreqSendsAndKeepsShadows : Ready State.reset := ready_reset
theorem witness_SetPhaseStoresAndSends : Ready State.reset := ready_reset
theorem witness_SetShapeWritesTheShapeBits : Ready (withCw 0x1120) ∧ (0 < 3 ∧ 2 < 3 ∧ 3 < 4) ∧ 3 ≤ 3 :=
  ⟨⟨rfl, rfl, rfl, rfl⟩, by decide, by decide⟩
theorem witness_IllegalShapeOnlyFromSetShape : exec (.setShape 3) State.reset = .fault (.illegalShape 3) ∧
    State.reset.stopped = none ∧ State.reset.busy = false ∧ decodeCmd false 0x600030000 = .ok (.setShape 3) ∧ 3 ≤ 3 :=
  ⟨rfl, rfl, rfl, rfl, le_rfl⟩
theorem witness_IssuingTwiceSendsTheSameWords : (Instr.setShape 2).isOperation = true ∧ ShapeInSet (.setShape 2) ∧
    Ready State.reset := ⟨rfl, by show 2 < 3; decide, ready_reset⟩
theorem witness_WordsSentDependOnControlWordOnly : (Instr.setFreq 1).isOperation = true ∧ ShapeInSet (.setFreq 1) ∧
    Ready State.reset ∧ Ready (withCw 0x1000) ∧ (∃ v, Instr.setFreq 1 = .setFreq v) :=
  ⟨rfl, trivial, ready_reset, ⟨rfl, rfl, rfl, rfl⟩, 1, rfl⟩
/-- The other case of the same statement: equal control words and different FX, FY, PH. -/
theorem witness_WordsSentDependOnControlWordOnly_cw : (Instr.setReset true).isOperation = true ∧
    Ready (setFxFy 0x4000 State.reset) ∧ State.reset.cw = (setFxFy 0x4000 State.reset).cw := ⟨rfl, ⟨rfl, rfl, rfl, rfl⟩, rfl⟩
theorem witness_ReservedSevenIsDropped : State.reset.stopped = none ∧ State.reset.busy = false := ⟨rfl, rfl⟩
theorem witness_ReservedWordIsDropped : ∃ s : State, s.stopped = none ∧ s.busy = false ∧ s.host = [.command 0x100020000] ∧
    decodeCmd s.params.exposeXfer 0x100020000 = .error .operandBits :=
  ⟨{ State.reset with host := [.command 0x100020000] }, rfl, rfl, rfl, rfl⟩
theorem witness_BusyHoldsTheCommand : ∃ s t : State, s.stopped = none ∧ s.busy = true ∧ s.host = [.command 0x330000000] ∧
    (Instr.setFreq 0).isOperation = true ∧ microStep s = .next t :=
  ⟨{ busyState with host := [.command 0x330000000] }, _, rfl, rfl, rfl, rfl, rfl⟩
/-- For CtrlWordIsRead and FreqPhaseAndTagTenWordsAreRead. -/
theorem witness_CtrlWordIsRead : State.reset.stopped = none := rfl
theorem witness_FreqPhaseAndTagTenWordsAreRead : State.reset.stopped = none := rfl
theorem witness_ControlOperationsFrame : (∃ t, exec (.setReset true) State.reset = .next t) ∧
    (∃ t, exec (.setRange true) State.reset = .next t) ∧ (∃ t, exec (.setShape 2) State.reset = .next t) :=
  ⟨⟨_, rfl⟩, ⟨_, rfl⟩, ⟨_, rfl⟩⟩
theorem witness_DataOperationsFrame : (∃ t, exec (.xfer 1 2) State.reset = .next t) ∧
    (∃ t, exec (.setFreq 1) State.reset = .next t) ∧ (∃ t, exec (.setAxisFreq 1 2) State.reset = .next t) ∧
    (∃ t, exec (.setPhase 1) State.reset = .next t) := ⟨⟨_, rfl⟩, ⟨_, rfl⟩, ⟨_, rfl⟩, ⟨_, rfl⟩⟩
theorem witness_TraceAndLogsOnlyGrow : ∃ t, exec (.setPhase 1) State.reset = .next t := ⟨_, rfl⟩
theorem witness_StepRunsTheDecodedInstruction : ∃ s s' : State,
    (s.host = [.command 0x330000000] ∧ s.busy = false ∧
      decode s.params.exposeXfer (.command 0x330000000) = .ok (.setFreq 0x3000)) ∧
    (s'.host = [.wire 0x6E23] ∧ decode s'.params.exposeXfer (.wire 0x6E23) = .ok (.freq 0x2E23)) :=
  ⟨{ State.reset with host := [.command 0x330000000] }, { State.reset with host := [.wire 0x6E23] },
    ⟨rfl, rfl, rfl⟩, rfl, rfl⟩
theorem witness_PresentedWordRunsNext : State.reset.busy = false ∧
    decodeTableWord 40 0x330000000 = some (.setFreq 0x3000) ∧ (∀ a b, Instr.setFreq 0x3000 ≠ .xfer a b) ∧
    decodeTableWord 40 0x000200020 = some (.xfer 0x0020 0x0020) := ⟨rfl, rfl, by simp, rfl⟩

theorem agrees_reset : EngineAgrees State.reset := ⟨rfl, rfl, rfl, rfl⟩
theorem agrees_host (moves : List HostMove) : EngineAgrees (setHost moves State.reset) := ⟨rfl, rfl, rfl, rfl⟩
/-- A state in the middle of a frame, with 6 bits sampled. -/
def midFrame : State := inTransfer .data 10 false false (bitsA5C3.take 6) (bits6E23.take 6)
theorem agrees_midFrame : EngineAgrees midFrame := by
  simp [EngineAgrees, midFrame, inTransfer, bitsA5C3, bits6E23]
/-- A run that a frame cut short has stopped. -/
def stoppedState : State := recordFault (.truncatedFrame 6) State.reset
theorem witness_OnlyTheseFaultsCanHappen :
    (EngineAgrees (setHost [.command 0x600030000] State.reset) ∧
      step (setHost [.command 0x600030000] State.reset) = .fault (.illegalShape 3)) ∧
    (EngineAgrees (setHost [.foreign (.sclk true)] State.reset) ∧
      step (setHost [.foreign (.sclk true)] State.reset) = .fault .pinInterference) ∧
    (EngineAgrees stoppedState ∧ stoppedState.stopped = some (.truncatedFrame 6) ∧
      step stoppedState = .fault (.truncatedFrame 6)) :=
  ⟨⟨agrees_host _, rfl⟩, ⟨agrees_host _, rfl⟩, agrees_reset, rfl, rfl⟩
theorem witness_EveryInstructionCompletes : (EngineAgrees State.reset ∧ State.reset.stopped = none) ∧
    (EngineAgrees midFrame ∧ midFrame.stopped = none) :=
  ⟨⟨agrees_reset, rfl⟩, agrees_midFrame, rfl⟩
theorem witness_ForeignDriverFaults : ∃ s : State, s.stopped = none ∧ s.host = [.foreign (.data true false)] :=
  ⟨setHost _ State.reset, rfl, rfl⟩

/-- A command to run, on the reset state. -/
def oneCommand : State := setHost [.command 0x600020000] State.reset
theorem witness_StepKeepsReservedBitsZero :
    oneCommand.cw &&& ~~~Config.cwMask = 0 ∧ ∃ t, step oneCommand = .next t :=
  ⟨by decide, _, rfl⟩
theorem witness_StepKeepsControlWordLegal : ControlLegal oneCommand ∧ ∃ t, step oneCommand = .next t :=
  ⟨⟨by decide, by decide⟩, _, rfl⟩
theorem witness_StepKeepsFrequencyLegal : FrequencyLegal oneCommand ∧ ∃ t, step oneCommand = .next t :=
  ⟨⟨rfl, .inl rfl⟩, _, rfl⟩
theorem witness_StepKeepsEngineAndLinesInStep : EngineAgrees oneCommand ∧ ∃ t, step oneCommand = .next t :=
  ⟨agrees_host _, _, rfl⟩
theorem witness_StepKeepsLogsEqualToTheWalk : TraceAgrees oneCommand ∧ ∃ t, step oneCommand = .next t :=
  ⟨rfl, _, rfl⟩
theorem witness_PublicOperationsKeepShadowsReadable : (Instr.setPhase 1).isPublic = true ∧ Ready State.reset ∧
    ControlLegal State.reset ∧ LogsShowShadows State.reset ∧ ∃ t, exec (.setPhase 1) State.reset = .next t :=
  ⟨rfl, ready_reset, ⟨by decide, by decide⟩, ⟨rfl, rfl, rfl⟩, _, rfl⟩
theorem witness_PublicOperationsKeepLogsPaired : (Instr.setPhase 1).isPublic = true ∧ Ready State.reset ∧
    ControlLegal State.reset ∧ LogsPaired State.reset ∧ ∃ t, exec (.setPhase 1) State.reset = .next t :=
  ⟨rfl, ready_reset, ⟨by decide, by decide⟩, ⟨rfl, by intro p hp; cases hp⟩, _, rfl⟩
theorem witness_EveryControlWordIsReachable : (0x0000 : Word) ∈ controlWords ∧ (0x1120 : Word) ∈ controlWords := by
  decide
theorem witness_FrequencyWordGoesToTheSelectedHalf : Ready State.reset ∧ ControlLegal State.reset :=
  ⟨ready_reset, by decide, by decide⟩

/-- Fifty-one ticks at which the host presents another command. -/
def fiftyOne : List PortIn := List.replicate 51 (presents 0x515000000)
theorem witness_TicksRefineTheOperation : Ready State.reset ∧
    decodeCommandRow State.reset.params.exposeXfer 0x330000000 = .ok (.setFreq 0x3000) ∧
    (Instr.setFreq 0x3000).isOperation = true ∧ fiftyOne.length = 51 ∧ ∀ p ∈ fiftyOne, p.rst = false :=
  ⟨ready_reset, rfl, rfl, rfl, fun p hp => by rw [List.eq_of_mem_replicate hp]; rfl⟩
theorem witness_ReadyAgainAfterFiftyOneTicks : Ready State.reset ∧
    decodeCommandRow State.reset.params.exposeXfer 0x600020000 = .ok (.setShape 2) ∧
    (Instr.setShape 2).isOperation = true ∧ ShapeInSet (.setShape 2) ∧ fiftyOne.length = 51 ∧
    ∀ p ∈ fiftyOne, p.rst = false :=
  ⟨ready_reset, rfl, rfl, by show 2 < 3; decide, rfl, fun p hp => by rw [List.eq_of_mem_replicate hp]; rfl⟩

/-- Two public operations, as instructions. -/
def twoOperations : List Instr := [.setReset true, .setFreq 0x3000]
theorem witness_CommandsRunInIssueOrder : Ready (setHost (twoOperations.map moveOf) State.reset) ∧
    (∀ i ∈ twoOperations, i.isPublic = true ∧ i.wellFormed = true ∧ ShapeInSet i) ∧
    (setHost (twoOperations.map moveOf) State.reset).host = twoOperations.map moveOf :=
  ⟨⟨rfl, rfl, rfl, rfl⟩, by simp [twoOperations, Instr.isPublic, Instr.wellFormed, operandFits, Config.opw, ShapeInSet], rfl⟩
theorem witness_RstRestoresEveryElement : rstPins.rst = true ∧ State.reset.lines.fsync = true ∧
    State.reset.stopped = none ∧ (inTransfer .stop 0 false false bitsA5C3 bits6E23).rx.ba.length = 16 ∧
    midFrame.stopped = none ∧ midFrame.lines.fsync = false ∧ midFrame.rx.ba.length ≠ 16 :=
  ⟨rfl, rfl, rfl, rfl, rfl, rfl, by decide⟩
/-- A tick with `rst` in the middle of a frame, in a run with a refusal. -/
def rstMidFrame : State := { setHost [.tick rstPins] midFrame with runRefused := true }
theorem witness_RecordsAreNeverCleared : ∃ t, step rstMidFrame = .next t ∧ rstMidFrame.runRefused = true ∧
    t.stopped ≠ none := ⟨_, rfl, rfl, by decide⟩
theorem witness_RecordedFaultStopsTheRun : stoppedState.stopped = some (.truncatedFrame 6) ∧
    (rstMidFrame.stopped = none ∧ rstMidFrame.host = [.tick rstPins] ∧ rstPins.rst = true ∧
      rstMidFrame.lines.fsync = false ∧ rstMidFrame.rx.ba.length ≠ 16) := ⟨rfl, rfl, rfl, rfl, rfl, by decide⟩
/-- R190: after the fault of V6 not even a command runs. -/
theorem test_stopped : faultOf (exec (.setReset true) stoppedState) = some (.truncatedFrame 6) := by decide
theorem witness_RstInAFrameTruncatesIt : rstPins.rst = true ∧ (midFrame.stopped = none ∧ State.reset.stopped = none) ∧
    (EngineAgrees midFrame ∧ midFrame.phase = .data) ∧ (EngineAgrees State.reset ∧ State.reset.phase = .idle) ∧
    (EngineAgrees (inTransfer .clkHi 16 false true [] [])) ∧
    (EngineAgrees (inTransfer .clkLo 1 false true (bitsA5C3.take 15) (bits6E23.take 15))) ∧
    (EngineAgrees busyState ∧ busyState.phase = .start) ∧
    (EngineAgrees (inTransfer .stop 0 false false bitsA5C3 bits6E23)) ∧
    (EngineAgrees (inTransfer .park 0 true false bitsA5C3 bits6E23)) :=
  ⟨rfl, ⟨rfl, rfl⟩, ⟨agrees_midFrame, rfl⟩, ⟨agrees_reset, rfl⟩, by simp [EngineAgrees, inTransfer],
    by simp [EngineAgrees, inTransfer, bitsA5C3, bits6E23],
    ⟨by simp [EngineAgrees, busyState, inTransfer], rfl⟩, by simp [EngineAgrees, inTransfer, bitsA5C3, bits6E23],
    by simp [EngineAgrees, inTransfer]⟩

end Sys2Proof.Tests
end

/-! The proofs for the scope family (00_scope.md). -/
section
namespace Sys2Proof.Config

/-! The masks of R6 through the bit numbers they stand for. -/

theorem maskReset_eq_shiftLeft : maskReset = (1 : Word) <<< bitReset := by decide
theorem maskHalf_eq_shiftLeft : maskHalf = (1 : Word) <<< bitHalf := by decide
theorem maskShapeHi_eq_shiftLeft : maskShapeHi = (1 : Word) <<< bitShapeHi := by decide
theorem maskShapeLo_eq_shiftLeft : maskShapeLo = (1 : Word) <<< bitShapeLo := by decide

theorem cwMask_eq_or_masks : cwMask = maskReset ||| maskHalf ||| maskShapeHi ||| maskShapeLo := by decide

/-- Settles O1: the plain values are the definitions themselves; each mask is tied to its bit number and `CW_MASK` to
the four masks by the lemmas above. -/
theorem constantsHaveTheSourcesValues : Obligations.ConstantsHaveTheSourcesValues :=
  ⟨rfl, rfl, rfl, rfl, rfl, rfl, rfl, rfl, rfl, rfl, rfl, maskReset_eq_shiftLeft, maskHalf_eq_shiftLeft,
    maskShapeHi_eq_shiftLeft, maskShapeLo_eq_shiftLeft, rfl, cwMask_eq_or_masks, rfl⟩

end Sys2Proof.Config
end

/-! The proofs for the state family (10_state.md): the values after reset, and how the control word moves. -/
section
namespace Sys2Proof.Machine

open Sys2Proof.Safety

/-! ### The fields of the reset state (R25, R210) -/

section
variable (p : Config.Params)

@[simp] theorem resetWith_cw : (State.resetWith p).cw = 0 := rfl
@[simp] theorem resetWith_fx : (State.resetWith p).fx = p.freqReset := rfl
@[simp] theorem resetWith_fy : (State.resetWith p).fy = p.freqReset := rfl
@[simp] theorem resetWith_ph : (State.resetWith p).ph = p.phaseReset := rfl
@[simp] theorem resetWith_sra : (State.resetWith p).sra = 0 := rfl
@[simp] theorem resetWith_srb : (State.resetWith p).srb = 0 := rfl
@[simp] theorem resetWith_cnt : (State.resetWith p).cnt = 0 := rfl
@[simp] theorem resetWith_phase : (State.resetWith p).phase = .idle := rfl
@[simp] theorem resetWith_busy : (State.resetWith p).busy = false := rfl
@[simp] theorem resetWith_lines : (State.resetWith p).lines = ⟨true, true, p.sdataResetA, p.sdataResetB⟩ := rfl
@[simp] theorem resetWith_trace : (State.resetWith p).trace = [] := rfl
@[simp] theorem resetWith_rx : (State.resetWith p).rx = ⟨[], [], [], []⟩ := rfl

end

@[simp] theorem afterRst_cw (s : State) : (afterRst s).cw = 0 := rfl

/-- Settles O2: one field lemma for each row of R25's table, the lines and the logs row by row. -/
theorem resetGivesTheStatedValues : Obligations.ResetGivesTheStatedValues := by
  intro p s
  have hlines : s.lines = ⟨true, true, p.sdataResetA, p.sdataResetB⟩ := resetWith_lines p
  have hrx : s.rx = ⟨[], [], [], []⟩ := resetWith_rx p
  refine ⟨resetWith_cw p, resetWith_fx p, resetWith_fy p, resetWith_ph p, resetWith_sra p, resetWith_srb p,
    resetWith_cnt p, resetWith_phase p, resetWith_busy p, ?_, ?_, ?_, ?_, resetWith_trace p, ?_, ?_⟩ <;>
  simp only [hlines, hrx]

/-! ### How the control word can move -/

/-- What an operation does to the control word: nothing, or one of the three rewritings of R120, R124 and R150. -/
inductive ControlUpdate (w : Word) : Word → Prop where
  | same : ControlUpdate w w
  | reset (en : Bool) : ControlUpdate w (putMask en w Config.maskReset)
  | half (hi : Bool) : ControlUpdate w (putMask hi w Config.maskHalf)
  | shape (sh : Shape) : ControlUpdate w (shapeUpdate sh w)

/-- The shadow update before a transfer. -/
theorem issue_send_cw {i : Instr} {s s' : State} {a b : Word} (h : issue i s = .send s' a b) :
    ControlUpdate s.cw s'.cw := by
  cases i with
  | setReset en => cases h; exact .reset en
  | setRange hi => cases h; exact .half hi
  | setShape code =>
    simp only [issue, issueSetShape] at h
    split at h
    · cases h; exact .shape _
    · cases h
  | xfer | setFreq | setAxisFreq | setPhase => cases h; exact .same
  | reserved7 | ctrl | freq | phase | tag10 => cases h

/-- An instruction that sends nothing leaves the control word as it is. -/
theorem issue_done_cw {i : Instr} {s s' : State} (h : issue i s = .done s') : s'.cw = s.cw := by
  obtain rfl | ⟨_, rfl⟩ := issue_done h <;> rfl

/-- An instruction accepted at a tick has made its shadow update (R86). -/
theorem accept_cw {i : Instr} {s t : State} (h : accept (issue i s) = .next t) : ControlUpdate s.cw t.cw := by
  cases hi : issue i s with
  | send s' a b => rw [hi] at h; cases h; rw [load_cw]; exact issue_send_cw hi
  | done s' => rw [hi] at h; cases h; rw [issue_done_cw hi]; exact .same
  | stop f => rw [hi] at h; cases h

theorem Kept.cw_eq {s t : State} (h : Kept s t) : t.cw = s.cw := h.shadows.cw

/-- An instruction, accepted or still waiting, makes at most its own control-word update. -/
theorem exec_cw {i : Instr} {s t : State} (h : exec i s = .next t) : ControlUpdate s.cw t.cw := by
  obtain ⟨-, ⟨-, hm⟩ | ⟨s', a, b, -, hi, ht⟩ | ⟨s', hi, rfl⟩⟩ := exec_next h
  · rw [(kept_microStep hm).cw_eq]; exact .same
  · rw [(kept_transfer ht).cw_eq]; exact issue_send_cw hi
  · rw [issue_done_cw hi]; exact .same

/-- Every way of reaching a next state makes a control-word update, or is `rst` and clears the control word (R210). -/
theorem StepTo.cw {s t : State} (h : StepTo s t) : ControlUpdate s.cw t.cw ∨ t.cw = 0 := by
  cases h with
  | micro h => rw [(kept_microStep h).cw_eq]; exact .inl .same
  | run i h => exact .inl (exec_cw h)
  | accepted i _ h => exact .inl (accept_cw h)
  | answered info h => subst h; exact .inl .same
  | restarted r _ h => subst h; exact .inr (afterRst_cw s)
  | truncated n _ h => subst h; exact .inr (afterRst_cw s)

theorem step_cw {s t : State} (h : step s = .next t) : ControlUpdate s.cw t.cw ∨ t.cw = 0 := by
  obtain ⟨-, rest, hs⟩ := step_next h
  exact hs.cw

/-- What holds of 0 and is kept by every control-word update is kept by every step. -/
theorem step_keeps_cw {P : Word → Prop} (h0 : P 0) (hu : ∀ w w', ControlUpdate w w' → P w → P w') {s t : State}
    (hs : P s.cw) (h : step s = .next t) : P t.cw := by
  obtain hc | hc := step_cw h
  · exact hu _ _ hc hs
  · rw [hc]; exact h0

/-! ### The bits outside the mask (R13) -/

/-- Setting bits of the mask puts nothing outside it. -/
theorem setMask_reserved {w mask : Word} (hm : mask &&& ~~~Config.cwMask = 0) (hw : w &&& ~~~Config.cwMask = 0) :
    setMask w mask &&& ~~~Config.cwMask = 0 := by
  rw [setMask, BitVec.and_or_distrib_right, hw, hm, BitVec.or_self]

/-- Clearing bits puts nothing outside the mask, whichever bits they are. -/
theorem clearMask_reserved {w : Word} (mask : Word) (hw : w &&& ~~~Config.cwMask = 0) :
    clearMask w mask &&& ~~~Config.cwMask = 0 := by
  rw [clearMask, BitVec.and_assoc, BitVec.and_comm (~~~mask), ← BitVec.and_assoc, hw]
  exact BitVec.zero_and

theorem putMask_reserved (b : Bool) {w mask : Word} (hm : mask &&& ~~~Config.cwMask = 0)
    (hw : w &&& ~~~Config.cwMask = 0) : putMask b w mask &&& ~~~Config.cwMask = 0 := by
  cases b with
  | true => exact setMask_reserved hm hw
  | false => exact clearMask_reserved mask hw

theorem shapeUpdate_reserved (sh : Shape) {w : Word} (hw : w &&& ~~~Config.cwMask = 0) :
    shapeUpdate sh w &&& ~~~Config.cwMask = 0 := by
  cases sh with
  | sine => exact clearMask_reserved _ hw
  | triangle => exact setMask_reserved (by decide) (clearMask_reserved _ hw)
  | square => exact setMask_reserved (by decide) (clearMask_reserved _ hw)

theorem ControlUpdate.reserved {w w' : Word} (h : ControlUpdate w w') (hw : w &&& ~~~Config.cwMask = 0) :
    w' &&& ~~~Config.cwMask = 0 := by
  cases h with
  | same => exact hw
  | reset en => exact putMask_reserved en (by decide) hw
  | half hi => exact putMask_reserved hi (by decide) hw
  | shape sh => exact shapeUpdate_reserved sh hw

/-- Settles O41: every mask an operation sets lies in `CW_MASK`, and `rst` clears the control word. -/
theorem stepKeepsReservedBitsZero : Obligations.StepKeepsReservedBitsZero := by
  refine ⟨fun p => ?_, fun s t hs h => ?_⟩
  · rw [resetWith_cw]; exact BitVec.zero_and
  · exact step_keeps_cw (P := fun w => w &&& ~~~Config.cwMask = 0) BitVec.zero_and
      (fun _ _ hu => hu.reserved) hs h

/-! ### The shape bits (R14) -/

/-- Bit by bit, setting a mask (R79). -/
theorem getLsbD_setMask (w mask : Word) (i : Nat) :
    (setMask w mask).getLsbD i = (w.getLsbD i || mask.getLsbD i) := BitVec.getLsbD_or

/-- Bit by bit, clearing a mask (R79). -/
theorem getLsbD_clearMask (w mask : Word) (i : Nat) :
    (clearMask w mask).getLsbD i = (w.getLsbD i && !mask.getLsbD i) := by
  by_cases hi : i < 16
  · simp [clearMask, hi]
  · simp [clearMask, hi, BitVec.getLsbD_of_ge w i (by omega)]

/-- A field update leaves every bit outside its mask (R79). -/
theorem getLsbD_putMask_of_not_mem (b : Bool) (w : Word) {mask : Word} {i : Nat} (hi : mask.getLsbD i = false) :
    (putMask b w mask).getLsbD i = w.getLsbD i := by
  cases b with
  | true => simp [putMask, getLsbD_setMask, hi]
  | false => simp [putMask, getLsbD_clearMask, hi]

theorem maskShapeHi_bits : Config.maskShapeHi.getLsbD Config.bitShapeHi = true ∧
    Config.maskShapeHi.getLsbD Config.bitShapeLo = false := by decide
theorem maskShapeLo_bits : Config.maskShapeLo.getLsbD Config.bitShapeHi = false ∧
    Config.maskShapeLo.getLsbD Config.bitShapeLo = true := by decide

/-- The shape bits after SETSHAPE are those of the shape, whatever they were (R81, R150). -/
theorem shapeUpdate_shapeBits (sh : Shape) (w : Word) :
    (shapeUpdate sh w).getLsbD Config.bitShapeHi = decide (sh = .square) ∧
    (shapeUpdate sh w).getLsbD Config.bitShapeLo = decide (sh = .triangle) := by
  cases sh <;> simp [shapeUpdate, getLsbD_setMask, getLsbD_clearMask, maskShapeHi_bits, maskShapeLo_bits]

/-- After SETSHAPE the control word is legal: no shape is both the square and the triangle (R14). -/
theorem shapeUpdate_legal (sh : Shape) {w : Word} (hw : LegalControl w) : LegalControl (shapeUpdate sh w) := by
  obtain ⟨hres, -⟩ := hw
  obtain ⟨hhi, hlo⟩ := shapeUpdate_shapeBits sh w
  refine ⟨shapeUpdate_reserved sh hres, ?_⟩
  rw [hhi, hlo]
  cases sh <;> decide

/-- A field update away from the two shape bits, and inside the mask, keeps a control word legal. -/
theorem putMask_legal (b : Bool) {w mask : Word} (hm : mask &&& ~~~Config.cwMask = 0)
    (hhi : mask.getLsbD Config.bitShapeHi = false) (hlo : mask.getLsbD Config.bitShapeLo = false)
    (hw : LegalControl w) : LegalControl (putMask b w mask) := by
  obtain ⟨hres, hshape⟩ := hw
  refine ⟨putMask_reserved b hm hres, ?_⟩
  rwa [getLsbD_putMask_of_not_mem b w hhi, getLsbD_putMask_of_not_mem b w hlo]

theorem ControlUpdate.legal {w w' : Word} (h : ControlUpdate w w') (hw : LegalControl w) : LegalControl w' := by
  cases h with
  | same => exact hw
  | reset en => exact putMask_legal en (by decide) (by decide) (by decide) hw
  | half hi => exact putMask_legal hi (by decide) (by decide) (by decide) hw
  | shape sh => exact shapeUpdate_legal sh hw

theorem legalControl_zero : LegalControl 0 := ⟨by decide, by decide⟩

/-- Settles O42: SETRESET and SETRANGE miss the shape bits, SETSHAPE rewrites both, and `rst` clears the control word. -/
theorem stepKeepsControlWordLegal : Obligations.StepKeepsControlWordLegal :=
  fun _ _ hs h => step_keeps_cw legalControl_zero (fun _ _ hu => hu.legal) hs h

end Sys2Proof.Machine
end

/-! The proofs for the encoding family (30_encoding.md): the rows of the table, the reserved command words, the tags of
the wire words, and the masks of the control word. -/
section
namespace Sys2Proof

/-! ### Rows of the table (R88, R168) -/

theorem rowHits_iff {n : Nat} {r : Row n} {c : BitVec n} : rowHits r c = true ↔ c &&& r.mask = r.pattern :=
  beq_iff_eq

/-- Two rows whose matches differ in a bit that both masks look at have no word in common. -/
theorem rows_disjoint {n : Nat} {r q : Row n} (h : r.pattern &&& q.mask ≠ q.pattern &&& r.mask) (c : BitVec n) :
    ¬(rowHits r c = true ∧ rowHits q c = true) := by
  rintro ⟨hr, hq⟩
  rw [rowHits_iff] at hr hq
  refine h ?_
  rw [← hr, ← hq, BitVec.and_assoc, BitVec.and_comm r.mask, ← BitVec.and_assoc]

/-- Settles O7: any two command rows differ in the operation field, any two wire rows in a tag bit. -/
theorem tableRowsAreDisjoint : Obligations.TableRowsAreDisjoint := by
  have hcommand : commandRows.Pairwise (fun r q => r.pattern &&& q.mask ≠ q.pattern &&& r.mask) := by decide
  have hwire : wireRows.Pairwise (fun r q => r.pattern &&& q.mask ≠ q.pattern &&& r.mask) := by decide
  exact ⟨hcommand.imp rows_disjoint, hwire.imp rows_disjoint⟩

/-- A command row that fixes the operation and asks for zeros in `a` and `b`, read field by field. -/
theorem rowHits_command {r : Row 35} {op : BitVec 3} {ma mb : Word} (hr : r = ⟨cmdWord 7 ma mb, cmdWord op 0 0⟩)
    (c : CmdWord) : rowHits r c = true ↔ cmdOp c = op ∧ cmdA c &&& ma = 0 ∧ cmdB c &&& mb = 0 := by
  have hop : cmdOp c &&& 7 = cmdOp c := BitVec.and_allOnes
  conv_lhs => rw [hr, ← cmdWord_fields c, rowHits_cmdWord, hop]

/-- `0xFFFF` looks at every bit of a field. -/
theorem and_ffff_eq_zero (w : Word) : w &&& 0xFFFF = 0 ↔ w = 0 := by
  have h : w &&& 0xFFFF = w := BitVec.and_allOnes
  rw [h]

section
variable (c : CmdWord)

theorem rowHits_rowXfer : rowHits rowXfer c = true ↔ cmdOp c = 0 := by
  simp [rowHits_command (r := rowXfer) (op := 0) (ma := 0) (mb := 0) (by decide)]

theorem rowHits_rowSetReset : rowHits rowSetReset c = true ↔ cmdOp c = 1 ∧ cmdA c &&& 0xFFFE = 0 ∧ cmdB c = 0 := by
  rw [rowHits_command (op := 1) (ma := 0xFFFE) (mb := 0xFFFF) (by decide), and_ffff_eq_zero]

theorem rowHits_rowSetRange : rowHits rowSetRange c = true ↔ cmdOp c = 2 ∧ cmdA c &&& 0xFFFE = 0 ∧ cmdB c = 0 := by
  rw [rowHits_command (op := 2) (ma := 0xFFFE) (mb := 0xFFFF) (by decide), and_ffff_eq_zero]

theorem rowHits_rowSetFreq : rowHits rowSetFreq c = true ↔ cmdOp c = 3 ∧ cmdB c = 0 := by
  rw [rowHits_command (op := 3) (ma := 0) (mb := 0xFFFF) (by decide), and_ffff_eq_zero]; simp

theorem rowHits_rowSetAxisFreq : rowHits rowSetAxisFreq c = true ↔ cmdOp c = 4 := by
  simp [rowHits_command (r := rowSetAxisFreq) (op := 4) (ma := 0) (mb := 0) (by decide)]

theorem rowHits_rowSetPhase : rowHits rowSetPhase c = true ↔ cmdOp c = 5 ∧ cmdB c = 0 := by
  rw [rowHits_command (op := 5) (ma := 0) (mb := 0xFFFF) (by decide), and_ffff_eq_zero]; simp

theorem rowHits_rowSetShape : rowHits rowSetShape c = true ↔ cmdOp c = 6 ∧ cmdA c &&& 0xFFFC = 0 ∧ cmdB c = 0 := by
  rw [rowHits_command (op := 6) (ma := 0xFFFC) (mb := 0xFFFF) (by decide), and_ffff_eq_zero]

end

/-! ### decodeCmd, one equation for each operation (R88, R89) -/

/-- The seven rows decodeCmd tries, by the fields of the word. -/
theorem decodeCmd_fields (expose : Bool) (c : CmdWord) : decodeCmd expose c =
    if cmdOp c = 0 then if expose then .ok (.xfer (cmdA c) (cmdB c)) else .error .xferNotExposed
    else if cmdOp c = 1 ∧ cmdA c &&& 0xFFFE = 0 ∧ cmdB c = 0 then .ok (.setReset ((cmdA c).getLsbD 0))
    else if cmdOp c = 2 ∧ cmdA c &&& 0xFFFE = 0 ∧ cmdB c = 0 then .ok (.setRange ((cmdA c).getLsbD 0))
    else if cmdOp c = 3 ∧ cmdB c = 0 then .ok (.setFreq (cmdA c).toNat)
    else if cmdOp c = 4 then .ok (.setAxisFreq (cmdA c).toNat (cmdB c).toNat)
    else if cmdOp c = 5 ∧ cmdB c = 0 then .ok (.setPhase (cmdA c).toNat)
    else if cmdOp c = 6 ∧ cmdA c &&& 0xFFFC = 0 ∧ cmdB c = 0 then .ok (.setShape ((cmdA c).extractLsb' 0 2).toNat)
    else if cmdOp c = 7 then .error .opSeven
    else .error .operandBits := by
  simp only [decodeCmd, rowHits_rowXfer, rowHits_rowSetReset, rowHits_rowSetRange, rowHits_rowSetFreq,
    rowHits_rowSetAxisFreq, rowHits_rowSetPhase, rowHits_rowSetShape]

theorem op_cases (op : BitVec 3) :
    op = 0 ∨ op = 1 ∨ op = 2 ∨ op = 3 ∨ op = 4 ∨ op = 5 ∨ op = 6 ∨ op = 7 := by
  revert op; decide

/-- An operand bit the table shows as 0 is 1 (R89's third case). -/
def OperandBitSet (c : CmdWord) : Prop :=
  ((cmdOp c = 1 ∨ cmdOp c = 2) ∧ (cmdA c &&& 0xFFFE ≠ 0 ∨ cmdB c ≠ 0)) ∨
  ((cmdOp c = 3 ∨ cmdOp c = 5) ∧ cmdB c ≠ 0) ∨
  (cmdOp c = 6 ∧ (cmdA c &&& 0xFFFC ≠ 0 ∨ cmdB c ≠ 0))

theorem ite_ok_eq_error_iff {ε α : Type} {p : Prop} [Decidable p] {a : α} {e e' : ε} :
    (if p then Except.ok a else Except.error e) = Except.error e' ↔ ¬p ∧ e' = e := by
  split <;> simp [*, eq_comm]

/-- What decodeCmd refuses and under which name, operation by operation (R89). -/
theorem decodeCmd_eq_error_iff (expose : Bool) (c : CmdWord) (r : Reserved) : decodeCmd expose c = .error r ↔
    (cmdOp c = 7 ∧ r = .opSeven) ∨ ((cmdOp c = 0 ∧ expose = false) ∧ r = .xferNotExposed) ∨
    (OperandBitSet c ∧ r = .operandBits) := by
  rw [decodeCmd_fields, OperandBitSet]
  obtain h | h | h | h | h | h | h | h := op_cases (cmdOp c) <;>
  simp [h, ite_ok_eq_error_iff, imp_iff_not_or, eq_comm (a := r)]

/-- Operation 6 with no operand bit set answers with the two low bits of `a` as the shape code. -/
theorem decodeCmd_setShape (expose : Bool) {c : CmdWord} (hop : cmdOp c = 6) (ha : cmdA c &&& 0xFFFC = 0)
    (hb : cmdB c = 0) : decodeCmd expose c = .ok (.setShape ((cmdA c).extractLsb' 0 2).toNat) := by
  simpa [decodeCmd_fields, hop, hb] using ha

/-- Settles O8: each clause is one name of `decodeCmd_eq_error_iff`; the code 3 has no bit under `0xFFFC`. -/
theorem reservedCommandWords : Obligations.ReservedCommandWords := by
  intro expose c
  refine ⟨?_, ?_, ?_, fun hop ha hb => ?_⟩
  · simp [decodeCmd_eq_error_iff]
  · simp [decodeCmd_eq_error_iff]
  · change _ ↔ OperandBitSet c
    simp [decodeCmd_eq_error_iff]
  · rw [decodeCmd_setShape expose hop (by rw [ha]; decide) hb, ha]
    rfl

/-! ### Tags (R70, R76, R160) -/

/-- A magnitude of 14 bits shares no bit with a tag, so tagging it adds the tag (R142). -/
theorem toNat_or_tag {w tag : Word} {m k : Nat} (htag : tag.toNat = 2 ^ 14 * k) (hw : w.toNat = m) (hm : m < 2 ^ 14) :
    (w ||| tag).toNat = m + tag.toNat := by
  rw [BitVec.toNat_or, htag, hw, Nat.or_comm, ← Nat.two_pow_add_eq_or_of_lt hm, Nat.add_comm]

/-- The bits under the tag are the word modulo `2 ^ 14`. -/
theorem toNat_and_3fff (w : Word) : (w &&& 0x3FFF).toNat = w.toNat % 2 ^ 14 :=
  (BitVec.toNat_and ..).trans (Nat.and_two_pow_sub_one_eq_mod w.toNat 14)

/-- Bit by bit, a word through its value. -/
theorem getLsbD_eq_decide (w : Word) (i : Nat) : w.getLsbD i = decide (w.toNat / 2 ^ i % 2 = 1) := by
  rw [← BitVec.testBit_toNat, Nat.testBit_eq_decide_div_mod_eq]

/-- The two tag bits of a class, as a number (R160). -/
def WireClass.tagBits : WireClass → Nat
  | .ctrl => 0
  | .freq => 1
  | .tag10 => 2
  | .phase => 3

theorem WireClass.tagBits_inj {k k' : WireClass} : k.tagBits = k'.tagBits ↔ k = k' := by
  cases k <;> cases k' <;> decide

/-- classify answers with the class of the two top bits. -/
theorem tagBits_classify (w : Word) : (classify w).tagBits = w.toNat / 2 ^ 14 := by
  have h15 := getLsbD_eq_decide w 15
  have h14 := getLsbD_eq_decide w 14
  unfold classify
  split <;> rename_i e15 e14 <;> rw [e15, eq_comm] at h15 <;> rw [e14, eq_comm] at h14 <;>
  simp only [decide_eq_true_iff, decide_eq_false_iff_not, WireClass.tagBits] at h14 h15 ⊢ <;> omega

theorem classify_eq_iff (w : Word) (k : WireClass) : classify w = k ↔ w.toNat / 2 ^ 14 = k.tagBits := by
  rw [← tagBits_classify, WireClass.tagBits_inj]

/-! ### decodeFreq and decodePhase on a magnitude and a tag (R162, R163) -/

section
variable {w : Word} {m : Nat}

theorem classify_freq (hw : w.toNat = m + 0x4000) (hm : m < 2 ^ 14) : classify w = .freq := by
  rw [classify_eq_iff, WireClass.tagBits]; omega

theorem classify_phase (hw : w.toNat = m + 0xC000) : classify w = .phase := by
  rw [classify_eq_iff, WireClass.tagBits]; omega

/-- A word of class FREQ is a magnitude plus the tag. -/
theorem toNat_of_classify_freq (h : classify w = .freq) : ∃ m < 2 ^ 14, w.toNat = m + 0x4000 := by
  rw [classify_eq_iff, WireClass.tagBits] at h
  exact ⟨w.toNat - 0x4000, by omega, by omega⟩

/-- A word of class PHASE is a magnitude plus the tag. -/
theorem toNat_of_classify_phase (h : classify w = .phase) : ∃ m < 2 ^ 14, w.toNat = m + 0xC000 := by
  rw [classify_eq_iff, WireClass.tagBits] at h
  exact ⟨w.toNat - 0xC000, by omega, by omega⟩

/-- decodeFreq looks at the bits under the tag. -/
theorem toNat_extract_freq (hw : w.toNat = m + 0x4000) (hm : m < 2 ^ 14) : (w.extractLsb' 0 14).toNat = m := by
  simp only [BitVec.extractLsb'_toNat, hw]; omega

theorem decodeFreq_ok (hw : w.toNat = m + 0x4000) (hm : m ≤ Config.fmax) :
    decodeFreq w = .ok (BitVec.ofNat 14 m) := by
  have hm' : m < 2 ^ 14 := hm.trans_lt (by decide)
  have hx := toNat_extract_freq hw hm'
  rw [decodeFreq, hx, if_neg (by omega), ← hx, BitVec.ofNat_toNat, BitVec.setWidth_eq]

theorem decodeFreq_aboveFmax (hw : w.toNat = m + 0x4000) (hm : Config.fmax < m) (hm' : m < 2 ^ 14) :
    decodeFreq w = .error .aboveFmax := by
  rw [decodeFreq, toNat_extract_freq hw hm', if_pos hm]

/-- decodePhase refuses by the two bits between the tag and the magnitude. -/
theorem phase_reserved_bits (hw : w.toNat = m + 0xC000) :
    (w.getLsbD 13 || w.getLsbD 12) = decide (Config.pmax < m) := by
  rw [getLsbD_eq_decide, getLsbD_eq_decide, ← Bool.decide_or, decide_eq_decide, Config.pmax]; omega

theorem decodePhase_ok (hw : w.toNat = m + 0xC000) (hm : m ≤ Config.pmax) :
    decodePhase w = .ok (BitVec.ofNat 12 m) := by
  have hm' : m < 2 ^ 12 := hm.trans_lt (by decide)
  have hx : (w.extractLsb' 0 12).toNat = m := by simp only [BitVec.extractLsb'_toNat, hw]; omega
  rw [decodePhase, phase_reserved_bits hw, if_neg (by simpa using hm), ← hx, BitVec.ofNat_toNat,
    BitVec.setWidth_eq]

theorem decodePhase_reservedBitsSet (hw : w.toNat = m + 0xC000) (hm : Config.pmax < m) :
    decodePhase w = .error .reservedBitsSet := by
  rw [decodePhase, phase_reserved_bits hw, if_pos (decide_eq_true hm)]

end

theorem encodeFreq_toNat (f : BitVec 14) : (encodeFreq f).toNat = f.toNat + 0x4000 :=
  toNat_or_tag (k := 1) rfl (BitVec.toNat_setWidth_of_le (by decide)) f.isLt

theorem encodePhase_toNat (p : BitVec 12) : (encodePhase p).toNat = p.toNat + 0xC000 :=
  toNat_or_tag (k := 3) rfl (BitVec.toNat_setWidth_of_le (by decide)) (p.isLt.trans (by decide))

theorem decodeFreq_encodeFreq {f : BitVec 14} (hf : f.toNat ≤ Config.fmax) : decodeFreq (encodeFreq f) = .ok f := by
  rw [decodeFreq_ok (encodeFreq_toNat f) hf, BitVec.ofNat_toNat, BitVec.setWidth_eq]

theorem decodePhase_encodePhase (p : BitVec 12) : decodePhase (encodePhase p) = .ok p := by
  have hp : p.toNat ≤ Config.pmax := Nat.le_of_lt_succ p.isLt
  rw [decodePhase_ok (encodePhase_toNat p) hp, BitVec.ofNat_toNat, BitVec.setWidth_eq]

end Sys2Proof

namespace Sys2Proof.Machine

/-! ### Operand assembly (R75 to R78) -/

theorem clampF_lt (v : Nat) : clampF v < 2 ^ 14 := (min_le_right v _).trans_lt (by decide)

theorem clampP_lt (v : Nat) : clampP v < 2 ^ 14 := (min_le_right v _).trans_lt (by decide)

/-- A clamped operand is not truncated by the word it is put in. -/
theorem toNat_ofNat_of_lt {m : Nat} (hm : m < 2 ^ 14) : (BitVec.ofNat 16 m).toNat = m :=
  (BitVec.toNat_ofNat ..).trans (Nat.mod_eq_of_lt (hm.trans (by decide)))

theorem freqWord_toNat (v : Nat) : (freqWord v).toNat = clampF v + 0x4000 :=
  toNat_or_tag (k := 1) rfl (toNat_ofNat_of_lt (clampF_lt v)) (clampF_lt v)

theorem phaseWordY_toNat (v : Nat) : (phaseWordY v).toNat = clampP v + 0xC000 :=
  toNat_or_tag (k := 3) rfl (toNat_ofNat_of_lt (clampP_lt v)) (clampP_lt v)

theorem freqWord_low (v : Nat) : (freqWord v &&& 0x3FFF).toNat = clampF v := by
  have := clampF_lt v
  rw [toNat_and_3fff, freqWord_toNat]; omega

theorem phaseWordY_low (v : Nat) : (phaseWordY v &&& 0x3FFF).toNat = clampP v := by
  have := clampP_lt v
  rw [toNat_and_3fff, phaseWordY_toNat]; omega

/-- Settles O14: the clamps are minima; a clamped operand lies under the tag, which therefore adds to it. -/
theorem clampAndTagLaws : Obligations.ClampAndTagLaws :=
  ⟨fun v => ⟨min_le_right v _, min_eq_left, fun h => min_eq_right h.le, min_eq_left (min_le_right v _)⟩,
    fun v => ⟨min_le_right v _, min_eq_left, fun h => min_eq_right h.le, min_eq_left (min_le_right v _)⟩,
    fun _ _ h => ⟨min_le_min_right _ h, min_le_min_right _ h⟩,
    fun v => ⟨freqWord_toNat v, freqWord_low v⟩, fun v => ⟨phaseWordY_toNat v, phaseWordY_low v⟩, rfl⟩

/-- Settles O10: every clause asks a decoder about a magnitude plus its tag, on one side of the limit. -/
theorem decodeFreqAndPhaseAreExact : Obligations.DecodeFreqAndPhaseAreExact := by
  refine ⟨fun v => ⟨decodeFreq_ok (freqWord_toNat v) (min_le_right v _), ?_⟩,
    fun v => ⟨decodePhase_ok (phaseWordY_toNat v) (min_le_right v _), ?_⟩,
    decodePhase_ok (m := 0) rfl (Nat.zero_le _), fun w hc => ?_, fun w hc => ?_,
    fun _ => decodeFreq_encodeFreq, decodePhase_encodePhase⟩
  · exact classify_freq (freqWord_toNat v) (clampF_lt v)
  · exact classify_phase (phaseWordY_toNat v)
  · obtain ⟨m, hm, hw⟩ := toNat_of_classify_freq hc
    refine ⟨fun h => ⟨_, decodeFreq_ok hw ?_, ?_⟩, fun h => decodeFreq_aboveFmax hw ?_ hm⟩
    · unfold Config.fmax; omega
    · rw [BitVec.toNat_ofNat, Nat.mod_eq_of_lt hm, hw]
    · unfold Config.fmax; omega
  · obtain ⟨m, hm, hw⟩ := toNat_of_classify_phase hc
    refine ⟨fun h => ⟨_, decodePhase_ok hw ?_, ?_⟩, fun h => decodePhase_reservedBitsSet hw ?_⟩
    · unfold Config.pmax; omega
    · rw [BitVec.toNat_ofNat, Nat.mod_eq_of_lt (by omega), hw]
    · unfold Config.pmax; omega

/-! ### Field updates under a mask (R79) -/

/-- A field update gives every bit of its mask the boolean. -/
theorem getLsbD_putMask_of_mem (b : Bool) (w : Word) {mask : Word} {i : Nat} (hi : mask.getLsbD i = true) :
    (putMask b w mask).getLsbD i = b := by
  cases b with
  | true => simp [putMask, getLsbD_setMask, hi]
  | false => simp [putMask, getLsbD_clearMask, hi]

/-- Of two updates of one field the last counts. -/
theorem putMask_putMask (b b' : Bool) (w mask : Word) : putMask b (putMask b' w mask) mask = putMask b w mask := by
  refine BitVec.eq_of_getLsbD_eq fun i _ => ?_
  cases hi : mask.getLsbD i with
  | true => rw [getLsbD_putMask_of_mem b _ hi, getLsbD_putMask_of_mem b _ hi]
  | false => simp only [getLsbD_putMask_of_not_mem _ _ hi]

/-- Settles O15: bit by bit, in the mask and outside it; the last update of a field is the one that counts. -/
theorem maskUpdateLaws : Obligations.MaskUpdateLaws :=
  fun cw mask b => ⟨fun _ => getLsbD_putMask_of_not_mem b cw, fun _ => getLsbD_putMask_of_mem b cw,
    putMask_putMask b b cw mask, putMask_putMask false true cw mask⟩

end Sys2Proof.Machine
end

/-! The proofs for the transfer family (40_transfer.md): what an operation's transfer leaves from a ready state, and the
agreement of the engine, the lines and the receiver along every step. -/
section
namespace Sys2Proof.Machine

open Sys2Proof.Safety

/-! ### A transfer from a ready state (R100, R110) -/

/-- An operation that has words to send completes from a ready state, after its shadow update (R57, R110). -/
theorem exec_ready_send {i : Instr} {s s' : State} {a b : Word} (hop : i.isOperation = true) (hr : Ready s)
    (hi : issue i s = .send s' a b) : exec i s = .next (afterTransfer a b s') := by
  rw [exec_command s (.inl hop)]
  exact present_send hr hi (issue_send hi).lines

/-- A transfer changes no shadow register (R101). -/
theorem sameShadows_afterTransfer (a b : Word) (s : State) : SameShadows s (afterTransfer a b s) :=
  ⟨rfl, rfl, rfl, rfl⟩

/-- A transfer changes no field that is not the block's. -/
theorem sameSurroundings_afterTransfer (a b : Word) (s : State) : SameSurroundings s (afterTransfer a b s) :=
  ⟨rfl, rfl, rfl, rfl, rfl⟩

/-- A bit period is three micro-steps (R102). -/
@[simp] theorem periodEvents_length (a b : Word) (j : Nat) : (periodEvents a b j).length = 3 := rfl

/-- A transfer is 51 micro-steps: one to open the frame, three for each of the sixteen bits, two to close it (R100, R108). -/
@[simp] theorem transferEvents_length (a b : Word) : (transferEvents a b).length = 51 := by
  have hbits : (bitOrder.flatMap (periodEvents a b)).length = 48 := by
    simp [bitOrder]
  simp [transferEvents, hbits]

theorem sent_trace_length {s t : State} {a b : Word} (h : Sent s t a b) : t.trace.length = s.trace.length + 51 := by
  rw [h.trace, List.length_append, transferEvents_length]

/-- Settles O16: XFER makes no shadow update, so the state it leaves is that of the transfer itself. -/
theorem xferSendsBothWords : Obligations.XferSendsBothWords := by
  intro a b s hr
  have hsent : Sent s (afterTransfer a b s) a b := sent_afterTransfer a b s s rfl rfl
  exact ⟨afterTransfer a b s, exec_ready_send rfl hr rfl, hsent, sameShadows_afterTransfer a b s,
    sameSurroundings_afterTransfer a b s, sent_trace_length hsent⟩

/-! ### The engine, the lines and the receiver agree (R21, R27, R109) -/

/-- When the block is ready the engine is idle, and so are the lines (R21, R27). -/
theorem agrees_ready {s : State} (hs : EngineAgrees s) (hb : s.busy = false) :
    s.phase = .idle ∧ s.lines.fsync = true ∧ s.lines.sclk = true ∧ s.cnt = 0 := by
  cases hp : s.phase with
  | idle =>
    simp only [EngineAgrees, hp] at hs
    exact ⟨rfl, hs.2⟩
  | _ => simp [EngineAgrees, hp, hb] at hs

/-- Agreement speaks of the engine, the lines and the receiver only. -/
theorem EngineUntouched.agrees {s t : State} (h : EngineUntouched s t) (hs : EngineAgrees s) : EngineAgrees t := by
  unfold EngineAgrees
  rw [h.phase, h.busy, h.lines, h.cnt, h.rx]
  exact hs

theorem issue_done_untouched {i : Instr} {s s' : State} (h : issue i s = .done s') : EngineUntouched s s' := by
  obtain rfl | ⟨info, rfl⟩ := issue_done h <;> constructor <;> rfl

theorem agrees_load (a b : Word) {s : State} (hf : s.lines.fsync = true) (hk : s.lines.sclk = true) :
    EngineAgrees (load a b s) := ⟨rfl, hf, hk, rfl⟩

theorem agrees_afterTransfer (a b : Word) (s : State) : EngineAgrees (afterTransfer a b s) := ⟨rfl, rfl, rfl, rfl⟩

theorem agrees_afterRst (s : State) : EngineAgrees (afterRst s) := ⟨rfl, rfl, rfl, rfl⟩

/-- Each row of R108 leads from the agreement of its own phase to that of the next; in CLKLO the bit that is sampled and the
count that falls balance. -/
theorem microStep_keeps_agrees {s t : State} (hs : EngineAgrees s) (h : microStep s = .next t) : EngineAgrees t := by
  cases hp : s.phase with
  | idle =>
    rw [microStep_idle s hp] at h
    cases h; exact hs
  | start =>
    simp only [EngineAgrees, hp] at hs
    obtain ⟨hb, hf, -, hc⟩ := hs
    rw [microStep_start s hp hf] at h
    cases h
    exact ⟨hb, rfl, by simp [hc], by simp [hc], by simp [hc], by simp [hc]⟩
  | data =>
    rw [microStep_data s hp] at h
    simp only [EngineAgrees, hp] at hs
    cases h; exact hs
  | clkHi =>
    simp only [EngineAgrees, hp] at hs
    obtain ⟨hb, hf, hcount⟩ := hs
    rw [microStep_clkHi s hp] at h
    cases h; exact ⟨hb, hf, rfl, hcount⟩
  | clkLo =>
    simp only [EngineAgrees, hp] at hs
    obtain ⟨hb, hf, hk, hlo, hhi, hA, hB⟩ := hs
    by_cases hc : 1 < s.cnt.toNat
    · rw [microStep_clkLo_more s hp hf hk hc] at h
      cases h
      have hdec : (s.cnt - 1).toNat = s.cnt.toNat - 1 := BitVec.toNat_sub_of_le (by bv_omega)
      simp only [EngineAgrees, hdec, List.length_append, List.length_singleton]
      exact ⟨hb, hf, by omega, by omega, by omega, by omega⟩
    · rw [microStep_clkLo_last s hp hf hk hc] at h
      cases h
      simp only [EngineAgrees, List.length_append, List.length_singleton]
      exact ⟨hb, hf, trivial, trivial, by omega, by omega⟩
  | stop =>
    simp only [EngineAgrees, hp] at hs
    obtain ⟨hb, hf, -, hc, hA, -⟩ := hs
    rw [microStep_stop s hp hf hA] at h
    cases h; exact ⟨hb, rfl, hc⟩
  | park =>
    simp only [EngineAgrees, hp] at hs
    obtain ⟨-, hf, hc⟩ := hs
    rw [microStep_park s hp] at h
    cases h; exact ⟨rfl, hf, rfl, hc⟩

/-- An instruction waits for a micro-step, makes a whole transfer from idle lines, or leaves the engine alone. -/
theorem exec_keeps_agrees {i : Instr} {s t : State} (hs : EngineAgrees s) (h : exec i s = .next t) : EngineAgrees t := by
  obtain ⟨-, ⟨-, hm⟩ | ⟨s', a, b, hb, hi, ht⟩ | ⟨s', hi, rfl⟩⟩ := exec_next h
  · exact microStep_keeps_agrees hs hm
  · obtain ⟨-, hf, -, -⟩ := agrees_ready hs hb
    rw [transfer_spec a b s' (by rw [(issue_send hi).lines, hf])] at ht
    cases ht; exact agrees_afterTransfer a b s'
  · exact (issue_done_untouched hi).agrees hs

/-- Acceptance at a tick loads the engine while the lines are idle, or leaves it alone (R108 row IDLE). -/
theorem accept_keeps_agrees {i : Instr} {s t : State} (hs : EngineAgrees s) (hb : s.busy = false)
    (h : accept (issue i s) = .next t) : EngineAgrees t := by
  obtain ⟨-, hf, hk, -⟩ := agrees_ready hs hb
  cases hi : issue i s with
  | send s' a b =>
    have hl := (issue_send hi).lines
    rw [hi] at h
    cases h; exact agrees_load a b (by rw [hl, hf]) (by rw [hl, hk])
  | done s' => rw [hi] at h; cases h; exact (issue_done_untouched hi).agrees hs
  | stop f => rw [hi] at h; cases h

/-- Every way of reaching a next state keeps the agreement, or restores it by `rst` (R210). -/
theorem StepTo.agrees {s t : State} (h : StepTo s t) (hs : EngineAgrees s) : EngineAgrees t := by
  cases h with
  | micro h => exact microStep_keeps_agrees hs h
  | run i h => exact exec_keeps_agrees hs h
  | accepted i hb h => exact accept_keeps_agrees hs hb h
  | answered info h => subst h; exact hs
  | restarted r _ h => subst h; exact agrees_afterRst s
  | truncated n _ h => subst h; exact agrees_afterRst s

/-- Settles O44: the host's list is no part of the agreement, and each way of stepping keeps it. -/
theorem stepKeepsEngineAndLinesInStep : Obligations.StepKeepsEngineAndLinesInStep := by
  intro s t hs h
  obtain ⟨-, rest, hstep⟩ := step_next h
  have hset : EngineAgrees (setHost rest s) := hs
  exact hstep.agrees hset

end Sys2Proof.Machine
end

/-! The proofs for the control-word family (41_control_word_commands.md): the command words of SETRESET and SETRANGE, and
what a control word stored and sent leaves behind. -/
section
namespace Sys2Proof

/-! ### The command words of the one-bit operations (R80, R88) -/

/-- A boolean operand uses bit 0 of `a` alone, so the table's zeros are zeros. -/
theorem boolOperand_and_fffe (b : Bool) : boolOperand b &&& 0xFFFE = 0 := by
  cases b <;> decide

theorem boolOperand_getLsbD_zero (b : Bool) : (boolOperand b).getLsbD 0 = b := by
  cases b <;> decide

/-- Operation 1 with no operand bit set but `a[0]` answers with that bit. -/
theorem decodeCmd_setReset (expose : Bool) {c : CmdWord} (hop : cmdOp c = 1) (ha : cmdA c &&& 0xFFFE = 0)
    (hb : cmdB c = 0) : decodeCmd expose c = .ok (.setReset ((cmdA c).getLsbD 0)) := by
  rw [decodeCmd_fields, if_neg (by rw [hop]; decide), if_pos ⟨hop, ha, hb⟩]

/-- Operation 2 with no operand bit set but `a[0]` answers with that bit. -/
theorem decodeCmd_setRange (expose : Bool) {c : CmdWord} (hop : cmdOp c = 2) (ha : cmdA c &&& 0xFFFE = 0)
    (hb : cmdB c = 0) : decodeCmd expose c = .ok (.setRange ((cmdA c).getLsbD 0)) := by
  have h1 : cmdOp c ≠ 1 := by rw [hop]; decide
  rw [decodeCmd_fields, if_neg (by rw [hop]; decide), if_neg (fun h => h1 h.1), if_pos ⟨hop, ha, hb⟩]

end Sys2Proof

namespace Sys2Proof.Machine

open Sys2Proof.Safety

/-! ### Storing a control word and sending it (R11, R110) -/

/-- An operation that stores a control word and sends it completes from a ready state: both chips receive the new word, and
the other shadows are as they were. -/
theorem exec_ready_control {i : Instr} {s : State} {w : Word} (hop : i.isOperation = true) (hr : Ready s)
    (hi : issue i s = issueControl w s) :
    ∃ t, exec i s = .next t ∧ t.cw = w ∧ Sent s t w w ∧ t.fx = s.fx ∧ t.fy = s.fy ∧ t.ph = s.ph ∧
      SameSurroundings s t :=
  ⟨afterTransfer w w (setCw w s), exec_ready_send hop hr hi, rfl, sent_afterTransfer w w s (setCw w s) rfl rfl,
    rfl, rfl, rfl, ⟨rfl, rfl, rfl, rfl, rfl⟩⟩

/-- When the control word is rewritten under the mask of one bit, that bit is the operand and every other bit is as it was
(R79, R80). -/
theorem exec_ready_putMask {i : Instr} {s : State} {b : Bool} {mask : Word} {k : Nat} (hop : i.isOperation = true)
    (hr : Ready s) (hmask : mask = BitVec.twoPow 16 k) (hk : k < 16)
    (hi : issue i s = issueControl (putMask b s.cw mask) s) :
    ∃ t, exec i s = .next t ∧ t.cw.getLsbD k = b ∧ (∀ j, j ≠ k → t.cw.getLsbD j = s.cw.getLsbD j) ∧
      Sent s t t.cw t.cw ∧ t.fx = s.fx ∧ t.fy = s.fy ∧ t.ph = s.ph ∧ SameSurroundings s t := by
  obtain ⟨t, ht, hcw, hsent, hrest⟩ := exec_ready_control hop hr hi
  have hmem : mask.getLsbD k = true := by simp [hmask, hk]
  have hnot : ∀ j, j ≠ k → mask.getLsbD j = false := fun j hj => by
    simp [hmask, BitVec.getLsbD_twoPow, hj.symm]
  refine ⟨t, ht, ?_, fun j hj => ?_, by rwa [hcw], hrest⟩
  · rw [hcw, getLsbD_putMask_of_mem b s.cw hmem]
  · rw [hcw, getLsbD_putMask_of_not_mem b s.cw (hnot j hj)]

/-- Settles O19: SETRESET rewrites the control word under the mask of bit 8. -/
theorem setResetWritesBitEight : Obligations.SetResetWritesBitEight := by
  refine ⟨fun en expose => ?_, fun en s hr => exec_ready_putMask rfl hr (mask := Config.maskReset) (by decide)
    (by decide) rfl⟩
  rw [decodeCmd_setReset expose (cmdOp_cmdWord ..) (by rw [cmdA_cmdWord, boolOperand_and_fffe]) (cmdB_cmdWord ..),
    cmdA_cmdWord, boolOperand_getLsbD_zero]

/-- Settles O20: SETRANGE rewrites the control word under the mask of bit 12. -/
theorem setRangeWritesBitTwelve : Obligations.SetRangeWritesBitTwelve := by
  refine ⟨fun hi expose => ?_, fun hi s hr => exec_ready_putMask rfl hr (mask := Config.maskHalf) (by decide)
    (by decide) rfl⟩
  rw [decodeCmd_setRange expose (cmdOp_cmdWord ..) (by rw [cmdA_cmdWord, boolOperand_and_fffe]) (cmdB_cmdWord ..),
    cmdA_cmdWord, boolOperand_getLsbD_zero]

end Sys2Proof.Machine
end

/-! The proofs for the frequency and phase family (42_frequency_phase_commands.md): the command words of SETFREQ,
SETAXISFREQ and SETPHASE, and what each of them stores and sends. -/
section
namespace Sys2Proof

/-! ### The command words of the numeric operations (R88) -/

section
variable (expose : Bool) {c : CmdWord}

/-- Operation 3 with `b` zero answers with the whole of `a`. -/
theorem decodeCmd_setFreq (hop : cmdOp c = 3) (hb : cmdB c = 0) :
    decodeCmd expose c = .ok (.setFreq (cmdA c).toNat) := by
  simp [decodeCmd_fields, hop, hb]

/-- Operation 4 has no operand bit that must be zero. -/
theorem decodeCmd_setAxisFreq (hop : cmdOp c = 4) :
    decodeCmd expose c = .ok (.setAxisFreq (cmdA c).toNat (cmdB c).toNat) := by
  simp [decodeCmd_fields, hop]

/-- Operation 5 with `b` zero answers with the whole of `a`. -/
theorem decodeCmd_setPhase (hop : cmdOp c = 5) (hb : cmdB c = 0) :
    decodeCmd expose c = .ok (.setPhase (cmdA c).toNat) := by
  simp [decodeCmd_fields, hop, hb]

end

end Sys2Proof

namespace Sys2Proof.Machine

open Sys2Proof.Safety

/-! ### What an operation that sends stores and leaves behind (R57, R110) -/

/-- The shadow update before a transfer changes no field that is not the block's (R57). -/
theorem issue_send_surroundings {i : Instr} {s s' : State} {a b : Word} (h : issue i s = .send s' a b) :
    SameSurroundings s s' := by
  cases i with
  | setShape code =>
    simp only [issue, issueSetShape] at h
    split at h
    · cases h; exact ⟨rfl, rfl, rfl, rfl, rfl⟩
    · cases h
  | xfer | setReset | setRange | setFreq | setAxisFreq | setPhase => cases h; exact ⟨rfl, rfl, rfl, rfl, rfl⟩
  | reserved7 | ctrl | freq | phase | tag10 => cases h

/-- An operation that has words to send completes from a ready state: the chips have received the words, the shadows are
those of its shadow update, and nothing else is touched. -/
theorem exec_ready_sent {i : Instr} {s s' : State} {a b : Word} (hop : i.isOperation = true) (hr : Ready s)
    (hi : issue i s = .send s' a b) :
    ∃ t, exec i s = .next t ∧ Sent s t a b ∧ SameShadows s' t ∧ SameSurroundings s t := by
  obtain ⟨hparams, hhost, hanswer, hrefused, hstopped⟩ := issue_send_surroundings hi
  exact ⟨afterTransfer a b s', exec_ready_send hop hr hi,
    sent_afterTransfer a b s s' (issue_send hi).trace (issue_send hi).rx,
    sameShadows_afterTransfer a b s', ⟨hparams, hhost, hanswer, hrefused, hstopped⟩⟩

/-- The twelve bits of PH hold every clamped operand (R16). -/
theorem phaseStored_toNat (v : Nat) : (phaseStored v).toNat = clampP v :=
  (BitVec.toNat_ofNat ..).trans (Nat.mod_eq_of_lt ((min_le_right v _).trans_lt (by decide)))

/-- Settles O21: SETFREQ's shadow update stores in FX and FY the one word it then sends to both chips. -/
theorem setFreqStoresAndSends : Obligations.SetFreqStoresAndSends := by
  refine ⟨fun a expose => ?_, fun v s hr => ?_⟩
  · rw [decodeCmd_setFreq expose (cmdOp_cmdWord ..) (cmdB_cmdWord ..), cmdA_cmdWord]
  · obtain ⟨t, ht, hsent, ⟨hcw, hfx, hfy, hph⟩, hsurr⟩ := exec_ready_sent (i := .setFreq v) rfl hr rfl
    exact ⟨t, freqWord v, rfl, ht, hfx, hfy, hsent, hcw, hph, hsurr⟩

/-- Settles O22: SETAXISFREQ makes no shadow update; its two words go out in one transfer. -/
theorem setAxisFreqSendsAndKeepsShadows : Obligations.SetAxisFreqSendsAndKeepsShadows := by
  refine ⟨fun a b expose => ?_, fun x y s hr => exec_ready_sent rfl hr rfl⟩
  rw [decodeCmd_setAxisFreq expose (cmdOp_cmdWord ..), cmdA_cmdWord, cmdB_cmdWord]

/-- Settles O23: SETPHASE's shadow update stores the clamped operand without its tag, and chip A's word does not depend on the
operand. -/
theorem setPhaseStoresAndSends : Obligations.SetPhaseStoresAndSends := by
  refine ⟨fun a expose => ?_, fun v s hr => ?_⟩
  · rw [decodeCmd_setPhase expose (cmdOp_cmdWord ..) (cmdB_cmdWord ..), cmdA_cmdWord]
  · obtain ⟨t, ht, hsent, ⟨hcw, hfx, hfy, hph⟩, hsurr⟩ := exec_ready_sent (i := .setPhase v) rfl hr rfl
    have hstored : t.ph.toNat = clampP v := (congrArg BitVec.toNat hph).trans (phaseStored_toNat v)
    exact ⟨t, ht, hstored, hsent, hcw, hfx, hfy, hsurr⟩

end Sys2Proof.Machine
end

/-! The proofs for the shape family (43_shape_command.md): the command word of SETSHAPE, the shape a code stands for, and the
two bits of the control word that SETSHAPE rewrites. -/
section
namespace Sys2Proof

/-! ### The shape code in a command word (R88) -/

/-- A code of two bits leaves the bits of `a` that the table shows as 0 at 0. -/
theorem shapeCode_and_fffc {code : Nat} (h : code < 4) : BitVec.ofNat 16 code &&& 0xFFFC = 0 := by
  interval_cases code <;> decide

/-- A code of two bits is read back from `a[1:0]`. -/
theorem shapeCode_extract {code : Nat} (h : code < 4) : ((BitVec.ofNat 16 code).extractLsb' 0 2).toNat = code := by
  interval_cases code <;> decide

end Sys2Proof

namespace Sys2Proof.Machine

open Sys2Proof.Safety

/-! ### The shape a code stands for (R81) -/

/-- Every code below 3 stands for a shape. -/
theorem exists_shapeOfCode {code : Nat} (h : code < 3) : ∃ sh, shapeOfCode code = some sh :=
  Option.ne_none_iff_exists'.1 fun hn => (shapeOfCode_none.1 hn).not_gt h

/-- Code 2 alone is the square and code 1 alone is the triangle. -/
theorem shapeOfCode_some {code : Nat} {sh : Shape} (h : shapeOfCode code = some sh) :
    (sh = .square ↔ code = 2) ∧ (sh = .triangle ↔ code = 1) := by
  match code, h with
  | 0, h | 1, h | 2, h => cases h; decide

/-! ### The control word after SETSHAPE (R79, R81, R150) -/

theorem maskShapeHi_eq_twoPow : Config.maskShapeHi = BitVec.twoPow 16 Config.bitShapeHi := by decide
theorem maskShapeLo_eq_twoPow : Config.maskShapeLo = BitVec.twoPow 16 Config.bitShapeLo := by decide

/-- SETSHAPE leaves every bit but the two shape bits. -/
theorem shapeUpdate_otherBits (sh : Shape) (w : Word) {i : Nat} (hhi : i ≠ Config.bitShapeHi)
    (hlo : i ≠ Config.bitShapeLo) : (shapeUpdate sh w).getLsbD i = w.getLsbD i := by
  have hmaskHi : Config.maskShapeHi.getLsbD i = false := by
    simp [maskShapeHi_eq_twoPow, BitVec.getLsbD_twoPow, hhi.symm]
  have hmaskLo : Config.maskShapeLo.getLsbD i = false := by
    simp [maskShapeLo_eq_twoPow, BitVec.getLsbD_twoPow, hlo.symm]
  cases sh <;> simp [shapeUpdate, getLsbD_setMask, getLsbD_clearMask, hmaskHi, hmaskLo]

/-- A mask without the two shape bits reads the same of the control word before and after SETSHAPE. -/
theorem shapeUpdate_and_mask (sh : Shape) (w : Word) {mask : Word} (hhi : mask.getLsbD Config.bitShapeHi = false)
    (hlo : mask.getLsbD Config.bitShapeLo = false) : shapeUpdate sh w &&& mask = w &&& mask := by
  refine BitVec.eq_of_getLsbD_eq fun i _ => ?_
  rw [BitVec.getLsbD_and, BitVec.getLsbD_and]
  by_cases hi : i = Config.bitShapeHi ∨ i = Config.bitShapeLo
  · have hmask : mask.getLsbD i = false := by rcases hi with rfl | rfl <;> assumption
    rw [hmask, Bool.and_false, Bool.and_false]
  · obtain ⟨hi5, hi1⟩ := not_or.1 hi
    rw [shapeUpdate_otherBits sh w hi5 hi1]

/-! ### What SETSHAPE asks for (R150, R153) -/

/-- A code that stands for a shape rewrites the control word and sends it. -/
theorem issue_setShape_some {code : Nat} {sh : Shape} (s : State) (h : shapeOfCode code = some sh) :
    issue (.setShape code) s = issueControl (shapeUpdate sh s.cw) s := by
  simp only [issue, issueSetShape, h]

/-- A code outside the closed set has no effect but the fault. -/
theorem issue_setShape_illegal {code : Nat} (s : State) (h : 3 ≤ code) :
    issue (.setShape code) s = .stop (.illegalShape code) := by
  simp only [issue, issueSetShape, shapeOfCode_none.2 h]

/-- A running block that is not busy faults at once on a code outside the closed set. -/
theorem exec_setShape_illegal {code : Nat} {s : State} (hb : s.busy = false) (hf : s.stopped = none) (h : 3 ≤ code) :
    exec (.setShape code) s = .fault (.illegalShape code) := by
  rw [exec_command s (.inl rfl), present_ready _ s hb hf, issue_setShape_illegal s h, complete_stop]

/-- Settles O24: the code names a shape, whose two bits SETSHAPE writes whatever they were; both masks miss every other bit. -/
theorem setShapeWritesTheShapeBits : Obligations.SetShapeWritesTheShapeBits := by
  refine ⟨fun code expose hcode => ?_, fun code s hr hcode => ?_, fun code s hr hcode => ?_⟩
  · rw [decodeCmd_setShape expose (cmdOp_cmdWord ..) (by rw [cmdA_cmdWord, shapeCode_and_fffc hcode])
      (cmdB_cmdWord ..), cmdA_cmdWord, shapeCode_extract hcode]
  · obtain ⟨sh, hsh⟩ := exists_shapeOfCode hcode
    obtain ⟨hsquare, htriangle⟩ := shapeOfCode_some hsh
    obtain ⟨hhi, hlo⟩ := shapeUpdate_shapeBits sh s.cw
    obtain ⟨t, ht, hcw, hsent, hrest⟩ := exec_ready_control rfl hr (issue_setShape_some s hsh)
    rw [← hcw] at hhi hlo hsent
    refine ⟨t, ht, hhi.trans (decide_eq_decide.2 hsquare), hlo.trans (decide_eq_decide.2 htriangle),
      fun i hi5 hi1 => ?_, ?_, hsent, hrest⟩
    · rw [hcw, shapeUpdate_otherBits sh s.cw hi5 hi1]
    · rw [hcw, shapeUpdate_and_mask sh s.cw (by decide) (by decide)]
  · obtain ⟨hb, -, -, hf⟩ := hr
    exact exec_setShape_illegal hb hf hcode

end Sys2Proof.Machine
end

/-! The proofs for the reset and hazards family (70_reset_and_hazards.md). -/
section
namespace Sys2Proof.Machine

/-- A foreign line write faults whichever line it drives: the block has no say in it (R184, R226). -/
theorem runMove_foreign (e : LineEvent) (rest : List HostMove) (s : State) :
    runMove (.foreign e :: rest) s = .fault .pinInterference := rfl

/-- Settles O40: a running block takes the host's next move, and that move is the foreign write. -/
theorem foreignDriverFaults : Obligations.ForeignDriverFaults := by
  intro s e rest hrunning hhost
  rw [step_running hrunning, hhost, runMove_foreign]

end Sys2Proof.Machine
end

/-! The proofs that join the families, first those of the decoders: command words and wire words read back (44_decode.md). -/
section
namespace Sys2Proof

/-! ### The fields a command row reads (R87, R88) -/

theorem rowHits_rowReserved7 (c : CmdWord) : rowHits rowReserved7 c = true ↔ cmdOp c = 7 := by
  simp [rowHits_command (r := rowReserved7) (op := 7) (ma := 0) (mb := 0) (by decide)]

theorem decodeCommandRow_seven (expose : Bool) {c : CmdWord} (h : cmdOp c = 7) :
    decodeCommandRow expose c = .ok (.reserved7 (c.extractLsb' 0 32)) := by
  rw [decodeCommandRow, if_pos ((rowHits_rowReserved7 c).2 h)]

theorem decodeCommandRow_other (expose : Bool) {c : CmdWord} (h : cmdOp c ≠ 7) :
    decodeCommandRow expose c = decodeCmd expose c := by
  rw [decodeCommandRow, if_neg (mt (rowHits_rowReserved7 c).1 h)]

/-- Operation 0 is XFER where it is exposed. -/
theorem decodeCmd_xfer {c : CmdWord} (h : cmdOp c = 0) : decodeCmd true c = .ok (.xfer (cmdA c) (cmdB c)) := by
  rw [decodeCmd_fields, if_pos h, if_pos rfl]

theorem decode_command_eq_ok_iff {expose : Bool} {c : CmdWord} {i : Instr} :
    decode expose (.command c) = .ok i ↔ decodeCommandRow expose c = .ok i := by
  cases h : decodeCommandRow expose c <;> simp [decode, h]

theorem decode_wire_eq_ok_iff {expose : Bool} {w : Word} {i : Instr} :
    decode expose (.wire w) = .ok i ↔ decodeWireRow w = .ok i := by
  cases h : decodeWireRow w <;> simp [decode, h]

/-- A word with no bit at or above bit `k` is below `2 ^ k`. -/
theorem toNat_lt_of_and_eq_zero {a m : Word} (k : Nat) (hm : ∀ i < 16, k ≤ i → m.getLsbD i = true)
    (h : a &&& m = 0) : a.toNat < 2 ^ k := by
  refine Nat.lt_pow_two_of_testBit _ fun i hi => ?_
  rw [BitVec.testBit_toNat]
  by_cases h16 : i < 16
  · have hbit : (a &&& m).getLsbD i = false := by simp [h]
    rwa [BitVec.getLsbD_and, hm i h16 hi, Bool.and_true] at hbit
  · exact BitVec.getLsbD_of_ge a i (by omega)

/-- A boolean operand is read back from `a[0]` (R80). -/
theorem boolOperand_of_bit {a : Word} (h : a &&& 0xFFFE = 0) : boolOperand (a.getLsbD 0) = a := by
  have hlt : a.toNat < 2 ^ 1 := toNat_lt_of_and_eq_zero 1 (by decide) h
  obtain ha | ha : a = 0 ∨ a = 1 := by
    rcases Nat.lt_succ_iff_lt_or_eq.1 hlt with h0 | h1
    · exact .inl (BitVec.eq_of_toNat_eq (Nat.lt_one_iff.1 h0))
    · exact .inr (BitVec.eq_of_toNat_eq h1)
  all_goals rw [ha]; decide

/-- A shape code is read back from `a[1:0]` (R88). -/
theorem shapeCode_toNat {a : Word} (h : a &&& 0xFFFC = 0) : (a.extractLsb' 0 2).toNat = a.toNat := by
  have hlt : a.toNat < 2 ^ 2 := toNat_lt_of_and_eq_zero 2 (by decide) h
  simpa using hlt

theorem operandFits_toNat (a : Word) : operandFits a.toNat = true := decide_eq_true a.isLt

theorem toNat_ofNat_of_fits {v : Nat} (h : operandFits v = true) : (BitVec.ofNat 16 v).toNat = v :=
  (BitVec.toNat_ofNat ..).trans (Nat.mod_eq_of_lt (of_decide_eq_true h))

/-- A command word given by its fields. -/
theorem cmdWord_eq {c : CmdWord} {op : BitVec 3} {a b : Word} (hop : cmdOp c = op) (ha : a = cmdA c)
    (hb : b = cmdB c) : cmdWord op a b = c := by
  rw [← hop, ha, hb, cmdWord_fields]

/-- The 32 bits of RESERVED7 are the two operand fields. -/
theorem reserved7_fields (c : CmdWord) :
    (c.extractLsb' 0 32).extractLsb' 16 16 = cmdA c ∧ (c.extractLsb' 0 32).extractLsb' 0 16 = cmdB c := by
  constructor <;> refine BitVec.eq_of_getLsbD_eq fun i hi => ?_
  · simp [cmdA, hi]
  · simp [cmdB, hi]

theorem reserved7_payload (u : BitVec 32) :
    (cmdWord 7 (u.extractLsb' 16 16) (u.extractLsb' 0 16)).extractLsb' 0 32 = u := by
  refine BitVec.eq_of_getLsbD_eq fun i hi => ?_
  simp only [BitVec.getLsbD_extractLsb', hi, decide_true, Bool.true_and, Nat.zero_add, cmdWord_getLsbD, if_true]
  split
  · simp [*]
  · simp [show i - 16 < 16 by omega, show 16 + (i - 16) = i by omega]

/-- Whatever decodeCmd answers is the operation the word encodes (R168). -/
theorem encode_of_decodeCmd {expose : Bool} {c : CmdWord} {i : Instr} (h : decodeCmd expose c = .ok i) :
    encode i = .command c ∧ i.wellFormed = true := by
  rw [decodeCmd_fields] at h
  have hsend : ∀ {op : BitVec 3} {a b : Word}, cmdOp c = op → a = cmdA c → b = cmdB c →
      Encoded.command (cmdWord op a b) = .command c := fun hop ha hb => congrArg _ (cmdWord_eq hop ha hb)
  have hnum : ∀ w : Word, BitVec.ofNat 16 w.toNat = w := fun w => by simp
  split at h
  case isTrue hop =>
    split at h <;> cases h
    exact ⟨hsend hop rfl rfl, rfl⟩
  split at h
  case isTrue hf =>
    obtain ⟨hop, ha, hb⟩ := hf
    cases h; exact ⟨hsend hop (boolOperand_of_bit ha) hb.symm, rfl⟩
  split at h
  case isTrue hf =>
    obtain ⟨hop, ha, hb⟩ := hf
    cases h; exact ⟨hsend hop (boolOperand_of_bit ha) hb.symm, rfl⟩
  split at h
  case isTrue hf =>
    obtain ⟨hop, hb⟩ := hf
    cases h; exact ⟨hsend hop (hnum _) hb.symm, operandFits_toNat _⟩
  split at h
  case isTrue hop =>
    cases h; exact ⟨hsend hop (hnum _) (hnum _), by simp [Instr.wellFormed, operandFits_toNat]⟩
  split at h
  case isTrue hf =>
    obtain ⟨hop, hb⟩ := hf
    cases h; exact ⟨hsend hop (hnum _) hb.symm, operandFits_toNat _⟩
  split at h
  case isTrue hf =>
    obtain ⟨hop, ha, hb⟩ := hf
    cases h
    exact ⟨hsend hop (by rw [shapeCode_toNat ha, hnum]) hb.symm, decide_eq_true (BitVec.isLt _)⟩
  split at h <;> cases h

/-- The same of every command row, RESERVED7 among them. -/
theorem encode_of_decodeCommandRow {expose : Bool} {c : CmdWord} {i : Instr}
    (h : decodeCommandRow expose c = .ok i) : encode i = .command c ∧ i.wellFormed = true := by
  by_cases hop : cmdOp c = 7
  · rw [decodeCommandRow_seven expose hop] at h
    obtain ⟨ha, hb⟩ := reserved7_fields c
    cases h; exact ⟨congrArg _ (cmdWord_eq hop ha hb), rfl⟩
  · rw [decodeCommandRow_other expose hop] at h
    exact encode_of_decodeCmd h

/-! ### The wire rows (R71 to R74) -/

section
variable {w : Word}

/-- Under its mask a word that a row matches shows the row's match. -/
theorem getLsbD_of_rowHits {n : Nat} {r : Row n} {c : BitVec n} (h : rowHits r c = true) {i : Nat}
    (hm : r.mask.getLsbD i = true) : c.getLsbD i = r.pattern.getLsbD i := by
  rw [← rowHits_iff.1 h, BitVec.getLsbD_and, hm, Bool.and_true]

/-- A word that a row matches is matched by no row that differs in a bit both look at. -/
theorem not_rowHits {n : Nat} {r q : Row n} {c : BitVec n} (h : rowHits r c = true)
    (hd : q.pattern &&& r.mask ≠ r.pattern &&& q.mask) : ¬ rowHits q c = true :=
  fun hq => rows_disjoint hd c ⟨hq, h⟩

theorem decodeWireRow_ctrl (h : rowHits rowCtrl w = true) : decodeWireRow w = .ok (.ctrl (w.getLsbD Config.bitHalf)
    (w.getLsbD Config.bitReset) (w.getLsbD Config.bitShapeHi) (w.getLsbD Config.bitShapeLo)) := by
  rw [decodeWireRow, if_pos h]

theorem decodeWireRow_freq (h : rowHits rowFreq w = true) : decodeWireRow w = .ok (.freq (w.extractLsb' 0 14)) := by
  rw [decodeWireRow, if_neg (not_rowHits h (by decide)), if_pos h]

theorem decodeWireRow_phase (h : rowHits rowPhase w = true) :
    decodeWireRow w = .ok (.phase (w.extractLsb' 0 12)) := by
  rw [decodeWireRow, if_neg (not_rowHits h (by decide)), if_neg (not_rowHits h (by decide)), if_pos h]

theorem decodeWireRow_tag10 (h : rowHits rowTag10 w = true) :
    decodeWireRow w = .ok (.tag10 (w.extractLsb' 0 14)) := by
  rw [decodeWireRow, if_neg (not_rowHits h (by decide)), if_neg (not_rowHits h (by decide)),
    if_neg (not_rowHits h (by decide)), if_pos h]

theorem getLsbD_bitsIf (b : Bool) (k : Word) (i : Nat) : (bitsIf b k).getLsbD i = (b && k.getLsbD i) := by
  cases b <;> simp [bitsIf]

/-- Bit by bit, a CTRL word (R71). -/
theorem ctrlWord_getLsbD (half reset hi lo : Bool) (i : Nat) : (ctrlWord half reset hi lo).getLsbD i =
    (half && Config.maskHalf.getLsbD i || reset && Config.maskReset.getLsbD i ||
      hi && Config.maskShapeHi.getLsbD i || lo && Config.maskShapeLo.getLsbD i) := by
  simp only [ctrlWord, BitVec.getLsbD_or, getLsbD_bitsIf]

theorem ctrlWord_of_row (h : rowHits rowCtrl w = true) : ctrlWord (w.getLsbD Config.bitHalf)
    (w.getLsbD Config.bitReset) (w.getLsbD Config.bitShapeHi) (w.getLsbD Config.bitShapeLo) = w := by
  refine BitVec.eq_of_getLsbD_eq fun i hi => ?_
  have hbit := fun hm => getLsbD_of_rowHits h (i := i) hm
  rw [ctrlWord_getLsbD]
  interval_cases i <;> simp [Config.maskHalf, Config.maskReset, Config.maskShapeHi, Config.maskShapeLo,
    Config.bitHalf, Config.bitReset, Config.bitShapeHi, Config.bitShapeLo, rowCtrl] at hbit ⊢ <;> exact hbit

theorem freqFormat_of_row (h : rowHits rowFreq w = true) : freqFormat (w.extractLsb' 0 14) = w := by
  refine BitVec.eq_of_getLsbD_eq fun i hi => ?_
  rw [freqFormat_getLsbD]
  split
  · simp [*]
  · obtain rfl | rfl : i = 14 ∨ i = 15 := by omega
    all_goals rw [getLsbD_of_rowHits h (by decide)]; decide

theorem phaseFormat_of_row (h : rowHits rowPhase w = true) : phaseFormat (w.extractLsb' 0 12) = w := by
  refine BitVec.eq_of_getLsbD_eq fun i hi => ?_
  rw [phaseFormat_getLsbD]
  split
  · simp [*]
  · obtain rfl | rfl | rfl | rfl : i = 12 ∨ i = 13 ∨ i = 14 ∨ i = 15 := by omega
    all_goals rw [getLsbD_of_rowHits h (by decide)]; decide

theorem tag10Format_of_row (h : rowHits rowTag10 w = true) : tag10Format (w.extractLsb' 0 14) = w := by
  refine BitVec.eq_of_getLsbD_eq fun i hi => ?_
  rw [tag10Format_getLsbD]
  split
  · simp [*]
  · obtain rfl | rfl : i = 14 ∨ i = 15 := by omega
    all_goals rw [getLsbD_of_rowHits h (by decide)]; decide

/-- Whatever decodeWireRow answers is the instruction the wire word encodes. -/
theorem encode_of_decodeWireRow {i : Instr} (h : decodeWireRow w = .ok i) :
    encode i = .wire w ∧ i.wellFormed = true := by
  unfold decodeWireRow at h
  split at h
  case isTrue hr => cases h; exact ⟨congrArg _ (ctrlWord_of_row hr), rfl⟩
  split at h
  case isTrue hr => cases h; exact ⟨congrArg _ (freqFormat_of_row hr), rfl⟩
  split at h
  case isTrue hr => cases h; exact ⟨congrArg _ (phaseFormat_of_row hr), rfl⟩
  split at h
  case isTrue hr => cases h; exact ⟨congrArg _ (tag10Format_of_row hr), rfl⟩
  cases h

end

theorem freqFormat_extract (f : BitVec 14) : (freqFormat f).extractLsb' 0 14 = f := by
  refine BitVec.eq_of_getLsbD_eq fun i hi => ?_
  simp [freqFormat_getLsbD, hi]

theorem phaseFormat_extract (p : BitVec 12) : (phaseFormat p).extractLsb' 0 12 = p := by
  refine BitVec.eq_of_getLsbD_eq fun i hi => ?_
  simp [phaseFormat_getLsbD, hi]

theorem tag10Format_extract (u : BitVec 14) : (tag10Format u).extractLsb' 0 14 = u := by
  refine BitVec.eq_of_getLsbD_eq fun i hi => ?_
  simp [tag10Format_getLsbD, hi]

theorem ctrlWord_bits (half reset hi lo : Bool) :
    (ctrlWord half reset hi lo).getLsbD Config.bitHalf = half ∧
    (ctrlWord half reset hi lo).getLsbD Config.bitReset = reset ∧
    (ctrlWord half reset hi lo).getLsbD Config.bitShapeHi = hi ∧
    (ctrlWord half reset hi lo).getLsbD Config.bitShapeLo = lo := by
  revert half reset hi lo; decide

/-! ### The round trip of instructions (R168) -/

/-- The word of a wire row lies in its row, which reads the operands back. -/
theorem decodeWireRow_encode {i : Instr} {w : Word} (h : encode i = .wire w) : decodeWireRow w = .ok i := by
  cases i with
  | ctrl half reset hi lo =>
    obtain ⟨v, hv, hr⟩ := Laws.EncodesInRow.ctrl half reset hi lo rfl
    obtain ⟨hhalf, hreset, hhi, hlo⟩ := ctrlWord_bits half reset hi lo
    cases h; cases hv
    rw [decodeWireRow_ctrl hr, hhalf, hreset, hhi, hlo]
  | freq f =>
    obtain ⟨v, hv, hr⟩ := Laws.EncodesInRow.freq f rfl
    cases h; cases hv
    rw [decodeWireRow_freq hr, freqFormat_extract]
  | phase p =>
    obtain ⟨v, hv, hr⟩ := Laws.EncodesInRow.phase p rfl
    cases h; cases hv
    rw [decodeWireRow_phase hr, phaseFormat_extract]
  | tag10 u =>
    obtain ⟨v, hv, hr⟩ := Laws.EncodesInRow.tag10 u rfl
    cases h; cases hv
    rw [decodeWireRow_tag10 hr, tag10Format_extract]
  | _ => cases h

/-- The word of a command row is decoded to its instruction, XFER where it is exposed. -/
theorem decodeCommandRow_encode {i : Instr} {c : CmdWord} (expose : Bool) (hwf : i.wellFormed = true)
    (hx : expose = true ∨ ∀ a b, i ≠ .xfer a b) (h : encode i = .command c) :
    decodeCommandRow expose c = .ok i := by
  cases i with
  | reserved7 u =>
    cases h
    rw [decodeCommandRow_seven expose (cmdOp_cmdWord ..), reserved7_payload]
  | ctrl | freq | phase | tag10 => cases h
  | xfer a b =>
    obtain rfl : expose = true := hx.resolve_right fun hn => hn a b rfl
    cases h
    rw [decodeCommandRow_other _ (by simp), decodeCmd_xfer (cmdOp_cmdWord ..), cmdA_cmdWord, cmdB_cmdWord]
  | setReset en =>
    cases h
    rw [decodeCommandRow_other _ (by simp), decodeCmd_setReset expose (cmdOp_cmdWord ..)
      (by rw [cmdA_cmdWord, boolOperand_and_fffe]) (cmdB_cmdWord ..), cmdA_cmdWord, boolOperand_getLsbD_zero]
  | setRange hi =>
    cases h
    rw [decodeCommandRow_other _ (by simp), decodeCmd_setRange expose (cmdOp_cmdWord ..)
      (by rw [cmdA_cmdWord, boolOperand_and_fffe]) (cmdB_cmdWord ..), cmdA_cmdWord, boolOperand_getLsbD_zero]
  | setFreq v =>
    cases h
    rw [decodeCommandRow_other _ (by simp), decodeCmd_setFreq expose (cmdOp_cmdWord ..) (cmdB_cmdWord ..),
      cmdA_cmdWord, toNat_ofNat_of_fits hwf]
  | setAxisFreq x y =>
    obtain ⟨hx, hy⟩ : operandFits x = true ∧ operandFits y = true := by simpa [Instr.wellFormed] using hwf
    cases h
    rw [decodeCommandRow_other _ (by simp), decodeCmd_setAxisFreq expose (cmdOp_cmdWord ..), cmdA_cmdWord,
      cmdB_cmdWord, toNat_ofNat_of_fits hx, toNat_ofNat_of_fits hy]
  | setPhase v =>
    cases h
    rw [decodeCommandRow_other _ (by simp), decodeCmd_setPhase expose (cmdOp_cmdWord ..) (cmdB_cmdWord ..),
      cmdA_cmdWord, toNat_ofNat_of_fits hwf]
  | setShape code =>
    have hcode : code < 4 := of_decide_eq_true hwf
    cases h
    rw [decodeCommandRow_other _ (by simp), decodeCmd_setShape expose (cmdOp_cmdWord ..)
      (by rw [cmdA_cmdWord, shapeCode_and_fffc hcode]) (cmdB_cmdWord ..), cmdA_cmdWord, shapeCode_extract hcode]

theorem decode_encode {i : Instr} (expose : Bool) (hwf : i.wellFormed = true)
    (hx : expose = true ∨ ∀ a b, i ≠ .xfer a b) : decode expose (encode i) = .ok i := by
  cases h : encode i with
  | command c => exact decode_command_eq_ok_iff.2 (decodeCommandRow_encode expose hwf hx h)
  | wire w => exact decode_wire_eq_ok_iff.2 (decodeWireRow_encode h)

/-- Settles O5: each row's word is decoded by its own row, which reads every operand back at the value its field holds. -/
theorem decodeUndoesEncode : Obligations.DecodeUndoesEncode :=
  fun _ hwf => ⟨decode_encode true hwf (.inl rfl), fun hx => decode_encode false hwf (.inr hx)⟩

/-- Settles O6: a row that matches fixes the bits outside the operands, and the instruction holds the others. -/
theorem encodeUndoesDecode : Obligations.EncodeUndoesDecode := by
  intro e expose i h
  cases e with
  | command c => exact encode_of_decodeCommandRow (decode_command_eq_ok_iff.1 h)
  | wire w => exact encode_of_decodeWireRow (decode_wire_eq_ok_iff.1 h)

/-- Settles O4: one word of each row, with its operands, through the decoder. -/
theorem sampleWordsDecode : Obligations.SampleWordsDecode := by
  unfold Obligations.SampleWordsDecode
  decide

end Sys2Proof
end

/-! The wire-word decoders: the twelve control words, the emitted words of each format, and decodeWord (44_decode.md). -/
section
namespace Sys2Proof

open Sys2Proof.Safety Sys2Proof.Machine

/-! ### Control words (R26, R161) -/

/-- The words without a bit outside `CW_MASK` are the words of the four field bits. -/
theorem and_eedd_eq_zero_iff (w : Word) : w &&& 0xEEDD = 0 ↔ ∃ half reset hi lo, w = ctrlWord half reset hi lo := by
  constructor
  · exact fun h => ⟨_, _, _, _, (ctrlWord_of_row (rowHits_iff.2 h)).symm⟩
  · rintro ⟨half, reset, hi, lo, rfl⟩
    revert half reset hi lo; decide

/-- decodeCtrl on the words it does not refuse for a reserved bit. -/
theorem decodeCtrl_ctrlWord (half reset hi lo : Bool) : decodeCtrl (ctrlWord half reset hi lo) =
    if hi = true ∧ lo = true then .error .unreachableShape
    else .ok ⟨reset, half, if hi = true then .square else if lo = true then .triangle else .sine⟩ := by
  cases half <;> cases reset <;> cases hi <;> cases lo <;> rfl

theorem decodeCtrl_reserved {w : Word} (h : w &&& 0xEEDD ≠ 0) : decodeCtrl w = .error .reservedBitsSet :=
  if_pos h

theorem decodeCtrl_encodeCtrl (c : CtrlFields) : decodeCtrl (encodeCtrl c) = .ok c := by
  obtain ⟨reset, half, shape⟩ := c
  cases reset <;> cases half <;> cases shape <;> rfl

theorem classify_encodeCtrl (c : CtrlFields) : classify (encodeCtrl c) = .ctrl := by
  obtain ⟨reset, half, shape⟩ := c
  cases reset <;> cases half <;> cases shape <;> rfl

/-- Where the fields of a triple stand in its word (R12). -/
theorem encodeCtrl_bits (c : CtrlFields) : (encodeCtrl c).getLsbD 8 = c.reset ∧ (encodeCtrl c).getLsbD 12 = c.half ∧
    (encodeCtrl c).getLsbD 5 = decide (c.shape = .square) ∧
    (encodeCtrl c).getLsbD 1 = decide (c.shape = .triangle) := by
  obtain ⟨reset, half, shape⟩ := c
  cases reset <;> cases half <;> cases shape <;> decide

/-- decodeCtrl answers with the triple whose word it is given, and with no other. -/
theorem decodeCtrl_eq_ok_iff {w : Word} {c : CtrlFields} : decodeCtrl w = .ok c ↔ encodeCtrl c = w := by
  constructor
  · intro h
    by_cases hw : w &&& 0xEEDD = 0
    · obtain ⟨half, reset, hi, lo, rfl⟩ := (and_eedd_eq_zero_iff w).1 hw
      rw [decodeCtrl_ctrlWord] at h
      split at h
      · cases h
      · cases h
        revert half reset hi lo; decide
    · rw [decodeCtrl_reserved hw] at h
      cases h
  · rintro rfl
    exact decodeCtrl_encodeCtrl c

theorem decodeCtrl_eq_reserved_iff {w : Word} : decodeCtrl w = .error .reservedBitsSet ↔ w &&& 0xEEDD ≠ 0 := by
  refine ⟨fun h hw => ?_, decodeCtrl_reserved⟩
  obtain ⟨half, reset, hi, lo, rfl⟩ := (and_eedd_eq_zero_iff w).1 hw
  rw [decodeCtrl_ctrlWord] at h
  split at h <;> cases h

theorem decodeCtrl_eq_unreachable_iff {w : Word} :
    decodeCtrl w = .error .unreachableShape ↔ w &&& 0xEEDD = 0 ∧ w &&& 0x0022 = 0x0022 := by
  by_cases hw : w &&& 0xEEDD = 0
  · obtain ⟨half, reset, hi, lo, rfl⟩ := (and_eedd_eq_zero_iff w).1 hw
    have hboth : ctrlWord half reset hi lo &&& 0x0022 = 0x0022 ↔ hi = true ∧ lo = true := by
      clear hw; revert half reset hi lo; decide
    rw [decodeCtrl_ctrlWord, hboth, and_iff_right hw]
    split <;> simp [*]
  · rw [decodeCtrl_reserved hw]
    exact iff_of_false (by simp) fun h => hw h.1

/-- The twelve triples of fields, in the order of R26's list. -/
def ctrlTriples : List CtrlFields :=
  [false, true].flatMap fun half => [false, true].flatMap fun reset =>
    [Shape.sine, .triangle, .square].map fun shape => ⟨reset, half, shape⟩

theorem mem_ctrlTriples (c : CtrlFields) : c ∈ ctrlTriples := by
  obtain ⟨reset, half, shape⟩ := c
  cases reset <;> cases half <;> cases shape <;> decide

theorem controlWords_eq_map : controlWords = ctrlTriples.map encodeCtrl := by decide

theorem mem_controlWords_iff {w : Word} : w ∈ controlWords ↔ ∃ c, encodeCtrl c = w := by
  simp [controlWords_eq_map, mem_ctrlTriples]

theorem mem_controlWords_iff_decodeCtrl {w : Word} : w ∈ controlWords ↔ ∃ c, decodeCtrl w = .ok c := by
  simp only [mem_controlWords_iff, decodeCtrl_eq_ok_iff]

theorem legalControl_iff {w : Word} : LegalControl w ↔ ∃ c, encodeCtrl c = w := by
  constructor
  · rintro ⟨hres, hshape⟩
    obtain ⟨half, reset, hi, lo, rfl⟩ := (and_eedd_eq_zero_iff w).1 hres
    obtain ⟨-, -, hhi, hlo⟩ := ctrlWord_bits half reset hi lo
    rw [hhi, hlo] at hshape
    exact ⟨_, decodeCtrl_eq_ok_iff.1 ((decodeCtrl_ctrlWord half reset hi lo).trans (if_neg hshape))⟩
  · rintro ⟨⟨reset, half, shape⟩, rfl⟩
    cases reset <;> cases half <;> cases shape <;> exact ⟨by decide, by decide⟩

theorem legalControl_iff_mem {w : Word} : LegalControl w ↔ w ∈ controlWords :=
  legalControl_iff.trans mem_controlWords_iff.symm

theorem classify_of_legalControl {w : Word} (h : LegalControl w) : classify w = .ctrl := by
  obtain ⟨c, rfl⟩ := legalControl_iff.1 h
  exact classify_encodeCtrl c

theorem classify_eq_ctrl_iff {w : Word} : classify w = .ctrl ↔ w.toNat < 0x4000 := by
  rw [classify_eq_iff, WireClass.tagBits]; omega

/-- Settles O13: both descriptions of a legal control word are the words of the twelve triples. -/
theorem twelveControlWords : Obligations.TwelveControlWords :=
  ⟨fun _ => legalControl_iff_mem, fun _ => mem_controlWords_iff⟩

/-- Settles O9: without a reserved bit a word is made of its four field bits, and decodeCtrl is inverse to encodeCtrl. -/
theorem decodeCtrlIsExact : Obligations.DecodeCtrlIsExact := by
  refine ⟨fun _ => mem_controlWords_iff_decodeCtrl.symm, fun _ => decodeCtrl_eq_reserved_iff,
    fun _ => decodeCtrl_eq_unreachable_iff, fun c => ⟨decodeCtrl_encodeCtrl c, classify_encodeCtrl c⟩,
    fun w c h => ?_, fun _ => classify_eq_ctrl_iff⟩
  obtain rfl := decodeCtrl_eq_ok_iff.1 h
  obtain ⟨hreset, hhalf, hhi, hlo⟩ := encodeCtrl_bits c
  exact ⟨rfl, hreset.symm, hhalf.symm, by rw [hhi, decide_eq_true_iff], by rw [hlo, decide_eq_true_iff]⟩

/-! ### Frequency and phase words (R162, R163, R165) -/

theorem legalFreq_iff {w : Word} : LegalFreq w ↔ ∃ f : BitVec 14, f.toNat ≤ Config.fmax ∧ encodeFreq f = w := by
  constructor
  · rintro ⟨hlo, hhi⟩
    have hm : w.toNat - 0x4000 ≤ Config.fmax := by omega
    have hf : (BitVec.ofNat 14 (w.toNat - 0x4000)).toNat = w.toNat - 0x4000 :=
      (BitVec.toNat_ofNat ..).trans (Nat.mod_eq_of_lt (hm.trans_lt (by decide)))
    refine ⟨BitVec.ofNat 14 (w.toNat - 0x4000), hf.trans_le hm, BitVec.eq_of_toNat_eq ?_⟩
    rw [encodeFreq_toNat, hf]; omega
  · rintro ⟨f, hf, rfl⟩
    unfold LegalFreq
    rw [encodeFreq_toNat]; omega

theorem legalPhase_iff {w : Word} : LegalPhase w ↔ ∃ p : BitVec 12, encodePhase p = w := by
  constructor
  · rintro ⟨hlo, hhi⟩
    have hp : (BitVec.ofNat 12 (w.toNat - 0xC000)).toNat = w.toNat - 0xC000 :=
      (BitVec.toNat_ofNat ..).trans (Nat.mod_eq_of_lt (by simp only [Config.pmax] at hhi; omega))
    refine ⟨BitVec.ofNat 12 (w.toNat - 0xC000), BitVec.eq_of_toNat_eq ?_⟩
    rw [encodePhase_toNat, hp]; omega
  · rintro ⟨p, rfl⟩
    have hp : p.toNat ≤ Config.pmax := Nat.le_of_lt_succ p.isLt
    unfold LegalPhase
    rw [encodePhase_toNat]; omega

theorem classify_encodeFreq (f : BitVec 14) : classify (encodeFreq f) = .freq :=
  classify_freq (encodeFreq_toNat f) f.isLt

theorem classify_encodePhase (p : BitVec 12) : classify (encodePhase p) = .phase :=
  classify_phase (encodePhase_toNat p)

theorem classify_of_legalFreq {w : Word} (h : LegalFreq w) : classify w = .freq := by
  obtain ⟨f, -, rfl⟩ := legalFreq_iff.1 h
  exact classify_encodeFreq f

theorem classify_of_legalPhase {w : Word} (h : LegalPhase w) : classify w = .phase := by
  obtain ⟨p, rfl⟩ := legalPhase_iff.1 h
  exact classify_encodePhase p

/-- A word of class FREQ that decodeFreq answers is emitted, and the answer is its magnitude. -/
theorem decodeFreq_eq_ok_iff {w : Word} (hc : classify w = .freq) {f : BitVec 14} :
    decodeFreq w = .ok f ↔ f.toNat ≤ Config.fmax ∧ encodeFreq f = w := by
  constructor
  · intro h
    obtain ⟨m, hm, hw⟩ := toNat_of_classify_freq hc
    by_cases hmax : m ≤ Config.fmax
    · rw [decodeFreq_ok hw hmax] at h
      cases h
      have hf : (BitVec.ofNat 14 m).toNat = m := (BitVec.toNat_ofNat ..).trans (Nat.mod_eq_of_lt hm)
      exact ⟨hf.trans_le hmax, BitVec.eq_of_toNat_eq (by rw [encodeFreq_toNat, hf, hw])⟩
    · rw [decodeFreq_aboveFmax hw (by omega) hm] at h
      cases h
  · rintro ⟨hf, rfl⟩
    exact decodeFreq_encodeFreq hf

/-- A word of class PHASE that decodePhase answers is emitted, and the answer is its magnitude. -/
theorem decodePhase_eq_ok_iff {w : Word} (hc : classify w = .phase) {p : BitVec 12} :
    decodePhase w = .ok p ↔ encodePhase p = w := by
  constructor
  · intro h
    obtain ⟨m, hm, hw⟩ := toNat_of_classify_phase hc
    by_cases hmax : m ≤ Config.pmax
    · rw [decodePhase_ok hw hmax] at h
      cases h
      have hp : (BitVec.ofNat 12 m).toNat = m :=
        (BitVec.toNat_ofNat ..).trans (Nat.mod_eq_of_lt (hmax.trans_lt (by decide)))
      exact BitVec.eq_of_toNat_eq (by rw [encodePhase_toNat, hp, hw])
    · rw [decodePhase_reservedBitsSet hw (by omega)] at h
      cases h
  · rintro rfl
    exact decodePhase_encodePhase p

/-! ### decodeWord (R164) -/

/-- Each answer of decodeWord is the answer of the decoder of the word's class, or the bits under tag 10. -/
theorem decodeWord_answers (w : Word) :
    (∀ c, decodeWord w = .ctrl c ↔ classify w = .ctrl ∧ decodeCtrl w = .ok c) ∧
    (∀ f, decodeWord w = .freq f ↔ classify w = .freq ∧ decodeFreq w = .ok f) ∧
    (∀ p, decodeWord w = .phase p ↔ classify w = .phase ∧ decodePhase w = .ok p) ∧
    (∀ r, decodeWord w = .notEmitted r ↔ (classify w = .ctrl ∧ decodeCtrl w = .error r) ∨
      (classify w = .freq ∧ decodeFreq w = .error r) ∨ (classify w = .phase ∧ decodePhase w = .error r)) ∧
    (∀ u, decodeWord w = .tag10 u ↔ classify w = .tag10 ∧ w.extractLsb' 0 14 = u) := by
  cases hk : classify w <;> simp only [decodeWord, hk]
  case ctrl => cases decodeCtrl w <;> simp
  case freq => cases decodeFreq w <;> simp
  case phase => cases decodePhase w <;> simp
  case tag10 => simp

theorem decodeWord_eq_ctrl_iff {w : Word} {c : CtrlFields} :
    decodeWord w = .ctrl c ↔ classify w = .ctrl ∧ decodeCtrl w = .ok c :=
  have ⟨hctrl, _⟩ := decodeWord_answers w
  hctrl c

theorem decodeWord_eq_freq_iff {w : Word} {f : BitVec 14} :
    decodeWord w = .freq f ↔ classify w = .freq ∧ decodeFreq w = .ok f :=
  have ⟨_, hfreq, _⟩ := decodeWord_answers w
  hfreq f

theorem decodeWord_eq_phase_iff {w : Word} {p : BitVec 12} :
    decodeWord w = .phase p ↔ classify w = .phase ∧ decodePhase w = .ok p :=
  have ⟨_, _, hphase, _⟩ := decodeWord_answers w
  hphase p

theorem decodeWord_eq_notEmitted_iff {w : Word} {r : NotEmitted} : decodeWord w = .notEmitted r ↔
    (classify w = .ctrl ∧ decodeCtrl w = .error r) ∨ (classify w = .freq ∧ decodeFreq w = .error r) ∨
    (classify w = .phase ∧ decodePhase w = .error r) :=
  have ⟨_, _, _, hnot, _⟩ := decodeWord_answers w
  hnot r

theorem decodeWord_eq_tag10_iff {w : Word} {u : BitVec 14} :
    decodeWord w = .tag10 u ↔ classify w = .tag10 ∧ w.extractLsb' 0 14 = u :=
  have ⟨_, _, _, _, htag10⟩ := decodeWord_answers w
  htag10 u

/-- The word an answer of decodeWord speaks of, if it names a format. -/
def wordOfInfo : WireInfo → Option Word
  | .ctrl c => some (encodeCtrl c)
  | .freq f => some (encodeFreq f)
  | .phase p => some (encodePhase p)
  | .tag10 _ => none
  | .notEmitted _ => none

/-- An answer that names a format tells which word was asked about. -/
theorem wordOfInfo_decodeWord {w v : Word} (h : wordOfInfo (decodeWord w) = some v) : v = w := by
  cases hd : decodeWord w with
  | ctrl c =>
    obtain ⟨-, hc⟩ := decodeWord_eq_ctrl_iff.1 hd
    rw [hd] at h
    cases h; exact decodeCtrl_eq_ok_iff.1 hc
  | freq f =>
    obtain ⟨hk, hf⟩ := decodeWord_eq_freq_iff.1 hd
    obtain ⟨-, hw⟩ := (decodeFreq_eq_ok_iff hk).1 hf
    rw [hd] at h
    cases h; exact hw
  | phase p =>
    obtain ⟨hk, hp⟩ := decodeWord_eq_phase_iff.1 hd
    rw [hd] at h
    cases h; exact (decodePhase_eq_ok_iff hk).1 hp
  | tag10 u => rw [hd] at h; cases h
  | notEmitted r => rw [hd] at h; cases h

theorem decodeWord_encodeCtrl (c : CtrlFields) : decodeWord (encodeCtrl c) = .ctrl c :=
  decodeWord_eq_ctrl_iff.2 ⟨classify_encodeCtrl c, decodeCtrl_encodeCtrl c⟩

theorem decodeWord_encodeFreq {f : BitVec 14} (hf : f.toNat ≤ Config.fmax) : decodeWord (encodeFreq f) = .freq f :=
  decodeWord_eq_freq_iff.2 ⟨classify_encodeFreq f, decodeFreq_encodeFreq hf⟩

theorem decodeWord_encodePhase (p : BitVec 12) : decodeWord (encodePhase p) = .phase p :=
  decodeWord_eq_phase_iff.2 ⟨classify_encodePhase p, decodePhase_encodePhase p⟩

/-- decodeWord names a format for the emitted words (R164, R82). -/
theorem decodeWord_names_iff {w : Word} :
    ((∃ c, decodeWord w = .ctrl c) ∨ (∃ f, decodeWord w = .freq f) ∨ (∃ p, decodeWord w = .phase p)) ↔
      Emitted w := by
  constructor
  · rintro (⟨c, h⟩ | ⟨f, h⟩ | ⟨p, h⟩)
    · exact .inl (mem_controlWords_iff_decodeCtrl.2 ⟨c, (decodeWord_eq_ctrl_iff.1 h).2⟩)
    · obtain ⟨hk, hf⟩ := decodeWord_eq_freq_iff.1 h
      exact .inr (.inl (legalFreq_iff.2 ⟨f, (decodeFreq_eq_ok_iff hk).1 hf⟩))
    · obtain ⟨hk, hp⟩ := decodeWord_eq_phase_iff.1 h
      exact .inr (.inr (legalPhase_iff.2 ⟨p, (decodePhase_eq_ok_iff hk).1 hp⟩))
  · rintro (h | h | h)
    · obtain ⟨c, rfl⟩ := mem_controlWords_iff.1 h
      exact .inl ⟨c, decodeWord_encodeCtrl c⟩
    · obtain ⟨f, hf, rfl⟩ := legalFreq_iff.1 h
      exact .inr (.inl ⟨f, decodeWord_encodeFreq hf⟩)
    · obtain ⟨p, rfl⟩ := legalPhase_iff.1 h
      exact .inr (.inr ⟨p, decodeWord_encodePhase p⟩)

/-- Two words with one answer are equal if the first is emitted (R165, law 4). -/
theorem decodeWord_inj {w w' : Word} (hw : Emitted w) (h : decodeWord w = decodeWord w') : w = w' := by
  obtain ⟨v, hv⟩ : ∃ v, wordOfInfo (decodeWord w) = some v := by
    obtain ⟨c, hd⟩ | ⟨f, hd⟩ | ⟨p, hd⟩ := decodeWord_names_iff.2 hw <;> exact ⟨_, by rw [hd]; rfl⟩
  have hv' : wordOfInfo (decodeWord w') = some v := by rw [← h, hv]
  exact (wordOfInfo_decodeWord hv).symm.trans (wordOfInfo_decodeWord hv')

/-- A word of tag 10 is the bits under the tag and the tag (R74). -/
theorem decodeWord_tag10_iff {w : Word} :
    (∃ u, decodeWord w = .tag10 u ∧ w.toNat = u.toNat + 0x8000) ↔ 0x8000 ≤ w.toNat ∧ w.toNat ≤ 0xBFFF := by
  have hk : classify w = .tag10 ↔ 0x8000 ≤ w.toNat ∧ w.toNat ≤ 0xBFFF := by
    rw [classify_eq_iff, WireClass.tagBits]; omega
  simp only [decodeWord_eq_tag10_iff, ← hk]
  constructor
  · rintro ⟨u, ⟨hc, -⟩, -⟩
    exact hc
  · intro hc
    obtain ⟨hlo, hhi⟩ := hk.1 hc
    refine ⟨_, ⟨hc, rfl⟩, ?_⟩
    rw [BitVec.extractLsb'_toNat]; omega

/-- Settles O11: decodeWord asks the decoder of the word's class, and the answers that name a format are those of R82's set. -/
theorem decodeWordNamesTheEmittedSet : Obligations.DecodeWordNamesTheEmittedSet :=
  ⟨fun _ => decodeWord_names_iff, fun _ => decodeWord_tag10_iff, fun _ _ => decodeWord_eq_ctrl_iff,
    fun _ _ => decodeWord_eq_freq_iff, fun _ _ => decodeWord_eq_phase_iff, fun _ _ => decodeWord_eq_notEmitted_iff,
    fun _ _ hw _ => decodeWord_inj hw⟩

/-! ### The round-trip laws (R165) -/

theorem ctrlRoundTrip : CtrlRoundTrip :=
  ⟨fun c => ⟨mem_controlWords_iff.2 ⟨c, rfl⟩, decodeCtrl_encodeCtrl c⟩,
    fun _ hw => (mem_controlWords_iff_decodeCtrl.1 hw).imp fun _ hc => ⟨hc, decodeCtrl_eq_ok_iff.1 hc⟩⟩

theorem freqRoundTrip : FreqRoundTrip := by
  refine ⟨fun f hf => ⟨legalFreq_iff.2 ⟨f, hf, rfl⟩, decodeFreq_encodeFreq hf⟩, fun w hw => ?_⟩
  obtain ⟨f, hf, rfl⟩ := legalFreq_iff.1 hw
  exact ⟨f, decodeFreq_encodeFreq hf, rfl⟩

theorem phaseRoundTrip : PhaseRoundTrip := by
  refine ⟨fun p => ⟨legalPhase_iff.2 ⟨p, rfl⟩, decodePhase_encodePhase p⟩, fun w hw => ?_⟩
  obtain ⟨p, rfl⟩ := legalPhase_iff.1 hw
  exact ⟨p, decodePhase_encodePhase p, rfl⟩

theorem classify_of_mem_controlWords {w : Word} (h : w ∈ controlWords) : classify w = .ctrl :=
  classify_of_legalControl (legalControl_iff_mem.2 h)

/-- The three emitted sets lie in three classes, so no two of them meet. -/
theorem emittedSetsApart : EmittedSetsApart := by
  refine ⟨fun _ => classify_of_mem_controlWords, fun _ => classify_of_legalFreq, fun _ => classify_of_legalPhase,
    fun w => ⟨?_, ?_, ?_⟩, fun _ _ hw _ => decodeWord_inj hw⟩
  · rintro ⟨hc, hf⟩
    cases (classify_of_mem_controlWords hc).symm.trans (classify_of_legalFreq hf)
  · rintro ⟨hc, hp⟩
    cases (classify_of_mem_controlWords hc).symm.trans (classify_of_legalPhase hp)
  · rintro ⟨hf, hp⟩
    cases (classify_of_legalFreq hf).symm.trans (classify_of_legalPhase hp)

theorem fieldsPlaced : FieldsPlaced :=
  ⟨encodeCtrl_bits, encodeFreq_toNat, encodePhase_toNat, by decide, by decide, by decide, by decide, by decide,
    by decide⟩

/-- Settles O12: the five laws, one lemma each. -/
theorem roundTripLaws : Obligations.RoundTripLaws :=
  ⟨ctrlRoundTrip, freqRoundTrip, phaseRoundTrip, emittedSetsApart, fieldsPlaced⟩

end Sys2Proof
end

/-! Invariants of a run: what every step keeps of the frequency shadow and of TRACE (10_state.md, 20_memory.md). -/
section
namespace Sys2Proof.Machine

open Sys2Proof.Safety

/-! ### Invariants of steps -/

/-- A property of states that each of the things a step without `rst` is made of keeps. -/
structure RunInvariant (P : State → Prop) : Prop where
  host : ∀ {s : State} (moves : List HostMove), P s → P (setHost moves s)
  marked : ∀ {s : State}, P s → P (markRefused s)
  answered : ∀ {s : State} (info : WireInfo), P s → P (recordAnswer info s)
  send : ∀ {i : Instr} {s s' : State} {a b : Word}, issue i s = .send s' a b → P s → P s'
  loaded : ∀ {s : State} (a b : Word), P s → P (load a b s)
  transferred : ∀ {a b : Word} {s t : State}, transfer a b s = .next t → P s → P t
  micro : ∀ {s t : State}, microStep s = .next t → P s → P t

/-- A property of states that `rst` keeps as well. -/
structure StepInvariant (P : State → Prop) : Prop extends RunInvariant P where
  restarted : ∀ {s : State}, P s → P (afterRst s)
  truncated : ∀ {s : State} (f : Fault), P s → P (recordFault f (afterRst s))

section
variable {P : State → Prop}

theorem RunInvariant.done (hP : RunInvariant P) {i : Instr} {s s' : State} (h : issue i s = .done s') (hs : P s) :
    P s' := by
  obtain rfl | ⟨info, rfl⟩ := issue_done h
  · exact hP.marked hs
  · exact hP.answered info hs

theorem RunInvariant.exec (hP : RunInvariant P) {i : Instr} {s t : State} (h : exec i s = .next t) (hs : P s) :
    P t := by
  obtain ⟨-, ⟨-, hm⟩ | ⟨s', a, b, -, hi, ht⟩ | ⟨s', hi, rfl⟩⟩ := exec_next h
  · exact hP.micro hm hs
  · exact hP.transferred ht (hP.send hi hs)
  · exact hP.done hi hs

theorem RunInvariant.accept (hP : RunInvariant P) {i : Instr} {s t : State} (h : accept (issue i s) = .next t)
    (hs : P s) : P t := by
  cases hi : issue i s with
  | send s' a b => rw [hi] at h; cases h; exact hP.loaded a b (hP.send hi hs)
  | done s' => rw [hi] at h; cases h; exact hP.done hi hs
  | stop f => rw [hi] at h; cases h

/-- An invariant of the parts of a step is kept by the step. -/
theorem StepInvariant.step (hP : StepInvariant P) {s t : State} (h : step s = .next t) (hs : P s) : P t := by
  obtain ⟨-, rest, hstep⟩ := step_next h
  have hrest : P (setHost rest s) := hP.host rest hs
  cases hstep with
  | micro h => exact hP.micro h hrest
  | run i h => exact hP.exec h hrest
  | accepted i _ h => exact hP.accept h hrest
  | answered info h => subst h; exact hP.answered info hrest
  | restarted r _ h => subst h; exact hP.restarted hrest
  | truncated n _ h => subst h; exact hP.truncated _ hrest

end

/-! ### The frequency shadow (R26) -/

theorem freqWord_legal (v : Nat) : LegalFreq (freqWord v) := by
  have hle : clampF v ≤ Config.fmax := min_le_right v _
  unfold LegalFreq
  rw [freqWord_toNat]; omega

theorem Kept.frequencyLegal {s t : State} (h : Kept s t) (hs : FrequencyLegal s) : FrequencyLegal t := by
  obtain ⟨⟨-, hfx, hfy, -⟩, ⟨hparams, -, -, -, -⟩, -, -, -⟩ := h
  unfold FrequencyLegal
  rwa [hfx, hfy, hparams]

/-- A shape code that has words to send stands for a shape, in every state (R150, R153). -/
theorem issue_setShape_of_send {code : Nat} {s s' : State} {a b : Word}
    (h : issue (.setShape code) s = .send s' a b) :
    ∃ sh, ∀ t, issue (.setShape code) t = issueControl (shapeUpdate sh t.cw) t := by
  cases hc : shapeOfCode code with
  | none => rw [issue_setShape_illegal s (shapeOfCode_none.1 hc)] at h; cases h
  | some sh => exact ⟨sh, fun t => issue_setShape_some t hc⟩

/-- SETFREQ stores one word in range in both halves of the shadow; no other operation touches it. -/
theorem issue_send_frequencyLegal {i : Instr} {s s' : State} {a b : Word} (h : issue i s = .send s' a b)
    (hs : FrequencyLegal s) : FrequencyLegal s' := by
  cases i with
  | setFreq v => cases h; exact ⟨rfl, .inr (freqWord_legal v)⟩
  | setShape code =>
    obtain ⟨sh, hsh⟩ := issue_setShape_of_send h
    rw [hsh] at h
    cases h; exact hs
  | xfer | setReset | setRange | setAxisFreq | setPhase => cases h; exact hs
  | reserved7 | ctrl | freq | phase | tag10 => cases h

theorem frequencyLegal_stepInvariant : StepInvariant FrequencyLegal where
  host _ hs := hs
  marked hs := hs
  answered _ hs := hs
  send := issue_send_frequencyLegal
  loaded a b hs := (kept_load a b _).frequencyLegal hs
  transferred h := (kept_transfer h).frequencyLegal
  micro h := (kept_microStep h).frequencyLegal
  restarted _ := ⟨rfl, .inl rfl⟩
  truncated _ _ := ⟨rfl, .inl rfl⟩

/-- Settles O43: the engine keeps the shadow, SETFREQ stores a word in range, and `rst` stores FREQ_RESET. -/
theorem stepKeepsFrequencyLegal : Obligations.StepKeepsFrequencyLegal :=
  fun _ _ hs h => frequencyLegal_stepInvariant.step h hs

/-! ### TRACE and the walk (R50) -/

/-- A property of states that a micro-step on the lines keeps, and that does not speak of the engine's own registers. -/
structure EngineInvariant (P : State → Prop) : Prop where
  driven : ∀ {e : LineEvent} {s t : State}, drive e s = .next t → P s → P t
  engine : ∀ (s : State) (sra srb : Word) (cnt : BitVec 5) (phase : EnginePhase) (busy : Bool),
    P s → P { s with sra := sra, srb := srb, cnt := cnt, phase := phase, busy := busy }

section
variable {P : State → Prop}

theorem EngineInvariant.bitPeriods (hP : EngineInvariant P) {n : Nat} {s t : State} (h : bitPeriods n s = .next t)
    (hs : P s) : P t := by
  induction n generalizing s with
  | zero => cases h; exact hs
  | succ n ih =>
    simp only [Machine.bitPeriods, bitPeriod, andThen_eq_next] at h
    obtain ⟨s4, ⟨s1, h1, s2, h2, s3, h3, h4⟩, h5⟩ := h
    cases h4
    exact ih h5 (hP.engine s3 _ _ _ _ _ (hP.driven h3 (hP.driven h2 (hP.driven h1 hs))))

/-- What every micro-step on the lines keeps is kept by a transfer. -/
theorem EngineInvariant.transfer (hP : EngineInvariant P) {a b : Word} {s t : State}
    (h : transfer a b s = .next t) (hs : P s) : P t := by
  simp only [Machine.transfer, andThen_eq_next] at h
  obtain ⟨s1, h1, s2, h2, s3, h3, s4, h4, h5⟩ := h
  cases h5
  have hload : P (load a b s) := hP.engine s _ _ _ _ _ hs
  have hframe : P s2 := hP.bitPeriods h2 (hP.driven h1 hload)
  exact hP.engine s4 _ _ _ _ _ (hP.driven h4 (hP.driven h3 hframe))

/-- And by the engine, one micro-step at a time. -/
theorem EngineInvariant.microStep (hP : EngineInvariant P) {s t : State} (h : microStep s = .next t) (hs : P s) :
    P t := by
  cases hp : s.phase <;> simp only [Machine.microStep, hp, andThen_eq_next] at h
  case idle => cases h; exact hs
  case clkLo =>
    obtain ⟨s1, h1, h2⟩ := h
    split at h2 <;> cases h2 <;> exact hP.engine s1 _ _ _ _ _ (hP.driven h1 hs)
  all_goals
    obtain ⟨s1, h1, h2⟩ := h
    cases h2; exact hP.engine s1 _ _ _ _ _ (hP.driven h1 hs)

end

/-- The walk over TRACE with one more micro-step is one more round of the receiver's loop. -/
theorem drive_traceAgrees {e : LineEvent} {s t : State} (h : drive e s = .next t) (hs : TraceAgrees s) :
    TraceAgrees t := by
  obtain ⟨r, hr, rfl⟩ := drive_next h
  unfold TraceAgrees at hs ⊢
  rw [walk_append, hs]
  simp only [Except.bind, walk, hr]

theorem traceAgrees_engineInvariant : EngineInvariant TraceAgrees where
  driven := drive_traceAgrees
  engine _ _ _ _ _ _ hs := hs

theorem EngineUntouched.traceAgrees {s t : State} (h : EngineUntouched s t) (hs : TraceAgrees s) : TraceAgrees t := by
  unfold TraceAgrees
  rwa [h.trace, h.params, h.lines, h.rx]

theorem traceAgrees_stepInvariant : StepInvariant TraceAgrees where
  host _ hs := hs
  marked hs := hs
  answered _ hs := hs
  send h := (issue_send h).traceAgrees
  loaded _ _ hs := hs
  transferred := traceAgrees_engineInvariant.transfer
  micro := traceAgrees_engineInvariant.microStep
  restarted _ := rfl
  truncated _ _ := rfl

/-- Settles O45: each micro-step on the lines is one round of the walk, and `rst` empties TRACE together with the receiver. -/
theorem stepKeepsLogsEqualToTheWalk : Obligations.StepKeepsLogsEqualToTheWalk :=
  fun _ _ hs h => traceAgrees_stepInvariant.step h hs

/-- Settles O3: the reset state's control word is 0, its shadow FREQ_RESET, its engine idle, and its trace and logs are
empty. -/
theorem resetMeetsTheInvariants : Obligations.ResetMeetsTheInvariants :=
  ⟨fun _ => ⟨legalControl_zero, ⟨rfl, .inl rfl⟩, ⟨rfl, rfl, rfl, rfl⟩, rfl, ⟨rfl, rfl, rfl⟩, ⟨rfl, by simp⟩,
    ⟨rfl, rfl, rfl, rfl⟩⟩, Config.defaults, rfl, rfl⟩

/-! ### Frames -/

theorem sameSurroundings_trans {s t u : State} (h : SameSurroundings s t) (k : SameSurroundings t u) :
    SameSurroundings s u :=
  ⟨k.params.trans h.params, k.host.trans h.host, k.answer.trans h.answer, k.runRefused.trans h.runRefused,
    k.stopped.trans h.stopped⟩

/-- An operation has words to send, or faults. -/
theorem issue_operation_ne_done {i : Instr} (hop : i.isOperation = true) (s s' : State) : issue i s ≠ .done s' := by
  cases i with
  | setShape code =>
    simp only [issue, issueSetShape]
    split <;> nofun
  | xfer | setReset | setRange | setFreq | setAxisFreq | setPhase => nofun
  | reserved7 | ctrl | freq | phase | tag10 => cases hop

/-- An operation that gives a next state has made its shadow update, or none if it waits, and after it the engine has
moved. -/
theorem exec_operation_next {i : Instr} (hop : i.isOperation = true) {s t : State} (h : exec i s = .next t) :
    ∃ s', (s' = s ∨ ∃ a b, issue i s = .send s' a b) ∧ Kept s' t := by
  obtain ⟨-, ⟨-, hm⟩ | ⟨s', a, b, -, hi, ht⟩ | ⟨s', hi, -⟩⟩ := exec_next h
  · exact ⟨s, .inl rfl, kept_microStep hm⟩
  · exact ⟨s', .inr ⟨a, b, hi⟩, kept_transfer ht⟩
  · exact absurd hi (issue_operation_ne_done hop s s')

theorem exec_operation_surroundings {i : Instr} (hop : i.isOperation = true) {s t : State} (h : exec i s = .next t) :
    SameSurroundings s t := by
  obtain ⟨s', rfl | ⟨a, b, hi⟩, hk⟩ := exec_operation_next hop h
  · exact hk.surroundings
  · exact sameSurroundings_trans (issue_send_surroundings hi) hk.surroundings

/-- An operation whose shadow update is of CW alone leaves the other shadows, and CW has a property that it had before and
that the update establishes. -/
theorem exec_control_frame {i : Instr} (hop : i.isOperation = true) {s t : State} {P : Word → Prop} (hcw : P s.cw)
    (hi : ∀ s' a b, issue i s = .send s' a b → ∃ w, s' = setCw w s ∧ P w) (h : exec i s = .next t) :
    t.fx = s.fx ∧ t.fy = s.fy ∧ t.ph = s.ph ∧ SameSurroundings s t ∧ P t.cw := by
  have hsurr := exec_operation_surroundings hop h
  obtain ⟨s', hs', ⟨⟨hcw', hfx, hfy, hph⟩, -, -, -, -⟩⟩ := exec_operation_next hop h
  rw [hcw', hfx, hfy, hph]
  obtain rfl | ⟨a, b, hsend⟩ := hs'
  · exact ⟨rfl, rfl, rfl, hsurr, hcw⟩
  · obtain ⟨w, rfl, hw⟩ := hi s' a b hsend
    exact ⟨rfl, rfl, rfl, hsurr, hw⟩

/-- A mask of one bit has no other bit. -/
theorem maskReset_otherBits {i : Nat} (h : i ≠ 8) : Config.maskReset.getLsbD i = false := by
  rw [show Config.maskReset = BitVec.twoPow 16 8 by decide, BitVec.getLsbD_twoPow]; simp [h.symm]

theorem maskHalf_otherBits {i : Nat} (h : i ≠ 12) : Config.maskHalf.getLsbD i = false := by
  rw [show Config.maskHalf = BitVec.twoPow 16 12 by decide, BitVec.getLsbD_twoPow]; simp [h.symm]

/-- Settles O33: the three operations update CW alone, and only under the masks of their own bits. -/
theorem controlOperationsFrame : Obligations.ControlOperationsFrame := by
  refine ⟨fun en s t => ?_, fun hi s t => ?_, fun code s t => ?_⟩
  · refine exec_control_frame rfl (P := fun w => ∀ i, i ≠ 8 → w.getLsbD i = s.cw.getLsbD i) (fun _ _ => rfl) ?_
    intro s' a b hsend
    cases hsend
    exact ⟨_, rfl, fun i hi => getLsbD_putMask_of_not_mem en s.cw (maskReset_otherBits hi)⟩
  · refine exec_control_frame rfl (P := fun w => ∀ i, i ≠ 12 → w.getLsbD i = s.cw.getLsbD i) (fun _ _ => rfl) ?_
    intro s' a b hsend
    cases hsend
    exact ⟨_, rfl, fun i hne => getLsbD_putMask_of_not_mem hi s.cw (maskHalf_otherBits hne)⟩
  · refine exec_control_frame rfl (P := fun w => ∀ i, i ≠ 5 → i ≠ 1 → w.getLsbD i = s.cw.getLsbD i)
      (fun _ _ _ => rfl) ?_
    intro s' a b hsend
    obtain ⟨sh, hsh⟩ := issue_setShape_of_send hsend
    rw [hsh] at hsend
    cases hsend
    exact ⟨_, rfl, fun _ h5 h1 => shapeUpdate_otherBits sh s.cw h5 h1⟩

/-- An operation without a shadow update changes what the engine changes. -/
theorem exec_kept {i : Instr} (hop : i.isOperation = true) {s t : State}
    (hi : ∀ s' a b, issue i s = .send s' a b → s' = s) (h : exec i s = .next t) : Kept s t := by
  obtain ⟨s', rfl | ⟨a, b, hsend⟩, hk⟩ := exec_operation_next hop h
  · exact hk
  · obtain rfl := hi s' a b hsend
    exact hk

/-- Settles O34: XFER and SETAXISFREQ make no shadow update, SETFREQ one of FX and FY, SETPHASE one of PH. -/
theorem dataOperationsFrame : Obligations.DataOperationsFrame := by
  refine ⟨fun a b s t h => ?_, fun v s t h => ?_, fun x y s t h => ?_, fun v s t h => ?_⟩
  · have hk : Kept s t := exec_kept rfl (fun _ _ _ hi => by cases hi; rfl) h
    exact ⟨hk.shadows, hk.surroundings⟩
  · have hsurr := exec_operation_surroundings rfl h
    obtain ⟨s', hs', ⟨⟨hcw, -, -, hph⟩, -, -, -, -⟩⟩ := exec_operation_next rfl h
    rw [hcw, hph]
    obtain rfl | ⟨_, _, hi⟩ := hs'
    · exact ⟨rfl, rfl, hsurr⟩
    · cases hi; exact ⟨rfl, rfl, hsurr⟩
  · have hk : Kept s t := exec_kept rfl (fun _ _ _ hi => by cases hi; rfl) h
    exact ⟨hk.shadows, hk.surroundings⟩
  · have hsurr := exec_operation_surroundings rfl h
    obtain ⟨s', hs', ⟨⟨hcw, hfx, hfy, -⟩, -, -, -, -⟩⟩ := exec_operation_next rfl h
    rw [hcw, hfx, hfy]
    obtain rfl | ⟨_, _, hi⟩ := hs'
    · exact ⟨rfl, rfl, rfl, hsurr⟩
    · cases hi; exact ⟨rfl, rfl, rfl, hsurr⟩

/-- Settles O35: no instruction touches TRACE or the logs before its transfer, and the engine only appends to them. -/
theorem traceAndLogsOnlyGrow : Obligations.TraceAndLogsOnlyGrow := by
  intro i s t h
  have hgrow : ∀ {s' : State}, EngineUntouched s s' → Kept s' t →
      s.trace <+: t.trace ∧ s.rx.rxA <+: t.rx.rxA ∧ s.rx.rxB <+: t.rx.rxB := by
    intro s' hu hk
    rw [← hu.trace, ← hu.rx]
    exact ⟨hk.trace, hk.rxA, hk.rxB⟩
  obtain ⟨-, ⟨-, hm⟩ | ⟨s', a, b, -, hi, ht⟩ | ⟨s', hi, rfl⟩⟩ := exec_next h
  · have hk := kept_microStep hm
    exact ⟨hk.trace, hk.rxA, hk.rxB⟩
  · exact hgrow (issue_send hi) (kept_transfer ht)
  · exact hgrow (issue_done_untouched hi) (Kept.refl t)

end Sys2Proof.Machine
end

/-! What the two chips receive of one transfer, and the pulses it makes on the lines (20_memory.md, 40_transfer.md). -/
section
namespace Sys2Proof.Machine

open Sys2Proof.Safety

/-! ### The other order of a bit period (90_conflicts.md C3) -/

/-- A bit period in the other order gives the receiver the same two bits, whatever the clock's level before it. -/
theorem walk_altPeriod (a b : Word) (j : Nat) (l : Lines) (r : Receiver) (h : l.fsync = false) :
    walk (altPeriodEvents a b j) l r = .ok (⟨false, false, a.getLsbD j, b.getLsbD j⟩,
      { r with ba := r.ba ++ [a.getLsbD j], bb := r.bb ++ [b.getLsbD j] }) := by
  obtain ⟨fsync, sclk, x, y⟩ := l
  obtain rfl : fsync = false := h
  have hset : observe ⟨false, sclk, x, y⟩ ⟨false, true, x, y⟩ r = .ok r := observe_quiet _ _ _ rfl rfl (.inr rfl)
  have hdata : observe ⟨false, true, x, y⟩ ⟨false, true, a.getLsbD j, b.getLsbD j⟩ r = .ok r :=
    observe_quiet _ _ _ rfl rfl (.inr rfl)
  have hclear := observe_samples ⟨false, true, a.getLsbD j, b.getLsbD j⟩ ⟨false, false, a.getLsbD j, b.getLsbD j⟩ r
    rfl rfl rfl rfl
  simp only [altPeriodEvents, walk, applyEvent, hset, hdata, hclear]

theorem walk_altPeriods (a b : Word) (js : List Nat) (l : Lines) (r : Receiver) (h : l.fsync = false) :
    ∃ l', l'.fsync = false ∧ walk (js.flatMap (altPeriodEvents a b)) l r = .ok (l',
      { r with ba := r.ba ++ js.map a.getLsbD, bb := r.bb ++ js.map b.getLsbD }) := by
  induction js generalizing l r with
  | nil => exact ⟨l, h, by simp [walk]⟩
  | cons j js ih =>
    obtain ⟨l', hl', hw⟩ := ih ⟨false, false, a.getLsbD j, b.getLsbD j⟩
      { r with ba := r.ba ++ [a.getLsbD j], bb := r.bb ++ [b.getLsbD j] } rfl
    refine ⟨l', hl', ?_⟩
    rw [List.flatMap_cons, walk_append, walk_altPeriod a b j l r h]
    simpa [Except.bind] using hw

/-- The bits in the order they are sent make up the word again (R43, R50). -/
theorem wordOfBits_bitOrder (w : Word) : wordOfBits (bitOrder.map w.getLsbD) = w := by
  have htop : bitOrder.map w.getLsbD = topBits 16 w := by
    simp [bitOrder, topBits, BitVec.msb_eq_getLsbD_last]
  rw [htop, wordOfBits_topBits]

/-- The receiver gets the two words of a transfer in the other order of C3. -/
theorem walk_altTransfer (a b : Word) (l : Lines) (r : Receiver) (h : l.fsync = true) :
    ∃ l' r', walk (altTransferEvents a b) l r = .ok (l', r') ∧ r'.rxA = r.rxA ++ [a] ∧ r'.rxB = r.rxB ++ [b] := by
  obtain ⟨l', hl', hw⟩ := walk_altPeriods a b bitOrder { l with fsync := false } { r with ba := [], bb := [] } rfl
  have hopen : observe l { l with fsync := false } r = .ok { r with ba := [], bb := [] } := observe_opens _ _ _ h rfl
  have hclose := observe_closes l' { l' with fsync := true }
    { r with ba := bitOrder.map a.getLsbD, bb := bitOrder.map b.getLsbD } hl' rfl (by simp [bitOrder])
  have hpark : ∀ r', observe { l' with fsync := true } { l' with fsync := true, sclk := true } r' = .ok r' :=
    fun r' => observe_outside _ _ _ rfl rfl
  simp only [List.nil_append] at hw
  simp only [wordOfBits_bitOrder] at hclose
  refine ⟨{ l' with fsync := true, sclk := true },
    ⟨bitOrder.map a.getLsbD, bitOrder.map b.getLsbD, r.rxA ++ [a], r.rxB ++ [b]⟩, ?_, rfl, rfl⟩
  simp only [altTransferEvents, walk, applyEvent, hopen, walk_append, hw, Except.bind, hclose, hpark]

/-- Settles O17: the transfer's own order by the transfer's specification, the other order bit period by bit period. -/
theorem eachChipReceivesItsWord : Obligations.EachChipReceivesItsWord := by
  refine ⟨fun a b s hr => ?_, fun a b l r hf _ => walk_altTransfer a b l r hf⟩
  obtain ⟨t, ht, hsent, -, -⟩ := exec_ready_sent (i := .xfer a b) rfl hr rfl
  exact ⟨t, ht, hsent.rxA, hsent.rxB⟩

/-! ### Pulses (R103) -/

/-- The transitions of a transfer from idle lines: the data levels do not count. -/
theorem countEdges_transferEvents (a b : Word) (l : Lines) (hf : l.fsync = true) (hk : l.sclk = true) :
    countEdges (transferEvents a b) l = ⟨16, 15, 0, 1, 1, 1⟩ := by
  obtain ⟨fsync, sclk, x, y⟩ := l
  obtain rfl : fsync = true := hf
  obtain rfl : sclk = true := hk
  rfl

/-- The micro-steps of a transfer that drive the clock: sixteen times set then clear, and a last set. -/
theorem filter_sclk_transferEvents (a b : Word) :
    (transferEvents a b).filter (fun e => decide (e = .sclk true ∨ e = .sclk false)) =
      (List.replicate 16 [LineEvent.sclk true, .sclk false]).flatten ++ [.sclk true] := rfl

/-- Settles O18: a ready block's transfer is the 51 micro-steps of `transferEvents`, from idle lines. -/
theorem sixteenPulsesInOneFrame : Obligations.SixteenPulsesInOneFrame := by
  intro a b s hr
  obtain ⟨t, ht, hsent, -, -⟩ := exec_ready_sent (i := .xfer a b) rfl hr rfl
  obtain ⟨-, hf, hk, -⟩ := hr
  exact ⟨t, transferEvents a b, ht, hsent.trace, transferEvents_length a b,
    countEdges_transferEvents a b s.lines hf hk, filter_sclk_transferEvents a b⟩

end Sys2Proof.Machine
end

/-! The words the operations send and what can be read from the receive logs (41, 42, 43, 44_decode.md). -/
section
namespace Sys2Proof.Machine

open Sys2Proof.Safety

/-! ### The words an operation sends (R53, R57) -/

/-- An operation whose shape code, if it has one, is in the closed set has words to send. -/
theorem issue_operation_send {i : Instr} (hop : i.isOperation = true) (hsh : ShapeInSet i) (s : State) :
    ∃ s' a b, issue i s = .send s' a b := by
  cases i with
  | setShape code =>
    obtain ⟨sh, hc⟩ := exists_shapeOfCode hsh
    exact ⟨_, _, _, issue_setShape_some s hc⟩
  | xfer | setReset | setRange | setFreq | setAxisFreq | setPhase => exact ⟨_, _, _, rfl⟩
  | reserved7 | ctrl | freq | phase | tag10 => cases hop

/-- The shape bits once written, writing them again changes nothing. -/
theorem shapeUpdate_shapeUpdate (sh : Shape) (w : Word) : shapeUpdate sh (shapeUpdate sh w) = shapeUpdate sh w := by
  obtain ⟨hhi, hlo⟩ := shapeUpdate_shapeBits sh w
  obtain ⟨hhi', hlo'⟩ := shapeUpdate_shapeBits sh (shapeUpdate sh w)
  refine BitVec.eq_of_getLsbD_eq fun i _ => ?_
  by_cases h5 : i = Config.bitShapeHi
  · rw [h5, hhi', hhi]
  · by_cases h1 : i = Config.bitShapeLo
    · rw [h1, hlo', hlo]
    · exact shapeUpdate_otherBits sh _ h5 h1

/-- A rewriting of CW that is idempotent stores and sends the same word again. -/
theorem issueControl_again {f : Word → Word} (hf : ∀ w, f (f w) = f w) {s s' t : State} {a b : Word}
    (h : issueControl (f s.cw) s = .send s' a b) (ht : SameShadows s' t) :
    ∃ t', issueControl (f t.cw) t = .send t' a b ∧ SameShadows t t' := by
  cases h
  have hcw : t.cw = f s.cw := ht.cw
  rw [hcw, hf]
  exact ⟨_, rfl, hcw.symm, rfl, rfl, rfl⟩

/-- Issued with the shadows that its own update left, an operation asks for the same words and leaves these shadows. -/
theorem issue_again {i : Instr} {s s' t : State} {a b : Word} (h : issue i s = .send s' a b)
    (ht : SameShadows s' t) : ∃ t', issue i t = .send t' a b ∧ SameShadows t t' := by
  cases i with
  | setReset en =>
    exact issueControl_again (f := (putMask en · Config.maskReset)) (fun w => putMask_putMask en en w _) h ht
  | setRange hi =>
    exact issueControl_again (f := (putMask hi · Config.maskHalf)) (fun w => putMask_putMask hi hi w _) h ht
  | setShape code =>
    obtain ⟨sh, hsh⟩ := issue_setShape_of_send h
    rw [hsh] at h ⊢
    exact issueControl_again (shapeUpdate_shapeUpdate sh) h ht
  | xfer | setAxisFreq => cases h; exact ⟨t, rfl, rfl, rfl, rfl, rfl⟩
  | setFreq v => cases h; exact ⟨_, rfl, rfl, ht.fx.symm, ht.fy.symm, rfl⟩
  | setPhase v => cases h; exact ⟨_, rfl, rfl, rfl, rfl, ht.ph.symm⟩
  | reserved7 | ctrl | freq | phase | tag10 => cases h

/-- A transfer leaves the block ready. -/
theorem ready_of_sent {s t : State} {a b : Word} (hr : Ready s) (h : Sent s t a b) (hs : SameSurroundings s t) :
    Ready t := by
  obtain ⟨-, -, -, hf⟩ := hr
  exact ⟨h.busy, by rw [h.lines], by rw [h.lines], hs.stopped.trans hf⟩

/-- Settles O26: the second issue finds the shadows that the first left. -/
theorem issuingTwiceSendsTheSameWords : Obligations.IssuingTwiceSendsTheSameWords := by
  intro i s hop hsh hr
  obtain ⟨s', a, b, hi⟩ := issue_operation_send hop hsh s
  obtain ⟨t, ht, hsent, hshadows, hsurr⟩ := exec_ready_sent hop hr hi
  obtain ⟨t', hi', hshadows'⟩ := issue_again hi hshadows
  obtain ⟨u, hu, hsent', ⟨hcw, hfx, hfy, hph⟩, -⟩ := exec_ready_sent hop (ready_of_sent hr hsent hsurr) hi'
  refine ⟨t, u, a, b, ht, hu, hsent, hsent', ?_⟩
  exact ⟨hcw.trans hshadows'.cw, hfx.trans hshadows'.fx, hfy.trans hshadows'.fy, hph.trans hshadows'.ph⟩

/-- The words an operation asks for are a function of its operands and CW, and those of a frequency or phase operation of the
operands alone. -/
theorem issue_words_congr {i : Instr} {s s' u : State} {a b : Word} (h : issue i s = .send u a b)
    (hcw : s.cw = s'.cw ∨ (∃ v, i = .setFreq v) ∨ (∃ x y, i = .setAxisFreq x y) ∨ (∃ v, i = .setPhase v)) :
    ∃ u', issue i s' = .send u' a b := by
  cases i with
  | xfer | setFreq | setAxisFreq | setPhase => cases h; exact ⟨_, rfl⟩
  | setReset en | setRange en =>
    obtain hcw : s.cw = s'.cw := by simpa using hcw
    cases h
    rw [hcw]; exact ⟨_, rfl⟩
  | setShape code =>
    obtain hcw : s.cw = s'.cw := by simpa using hcw
    obtain ⟨sh, hsh⟩ := issue_setShape_of_send h
    rw [hsh] at h ⊢
    cases h
    rw [hcw]; exact ⟨_, rfl⟩
  | reserved7 | ctrl | freq | phase | tag10 => cases h

/-- Settles O27: both states issue the same words, and each transfer sends the words that were issued. -/
theorem wordsSentDependOnControlWordOnly : Obligations.WordsSentDependOnControlWordOnly := by
  intro i s s' hop hsh hr hr' hcw
  obtain ⟨u, a, b, hi⟩ := issue_operation_send hop hsh s
  obtain ⟨u', hi'⟩ := issue_words_congr hi hcw
  obtain ⟨t, ht, hsent, -⟩ := exec_ready_sent hop hr hi
  obtain ⟨t', ht', hsent', -⟩ := exec_ready_sent hop hr' hi'
  exact ⟨t, t', a, b, ht, ht', hsent, hsent'⟩

/-! ### What a public operation adds to the logs (R166, R167) -/

theorem isOperation_of_isPublic {i : Instr} (h : i.isPublic = true) : i.isOperation = true := by
  cases i with
  | xfer | reserved7 | ctrl | freq | phase | tag10 => cases h
  | _ => rfl

/-- The shadow update and the two words of a public operation: a control word stored and sent to both chips, two frequency
words, or the phase-zero word and the phase that is stored. -/
inductive PublicSend (s : State) : State → Word → Word → Prop where
  | control (w : Word) (hw : ControlUpdate s.cw w) : PublicSend s (setCw w s) w w
  | freq (s' : State) (x y : Nat) (hcw : s'.cw = s.cw) (hph : s'.ph = s.ph) :
      PublicSend s s' (freqWord x) (freqWord y)
  | phase (v : Nat) : PublicSend s (setPh (phaseStored v) s) phaseWordX (phaseWordY v)

theorem issue_public {i : Instr} (hp : i.isPublic = true) {s s' : State} {a b : Word}
    (h : issue i s = .send s' a b) : PublicSend s s' a b := by
  cases i with
  | setReset en => cases h; exact .control _ (.reset en)
  | setRange hi => cases h; exact .control _ (.half hi)
  | setFreq v => cases h; exact .freq _ v v rfl rfl
  | setAxisFreq x y => cases h; exact .freq _ x y rfl rfl
  | setPhase v => cases h; exact .phase v
  | setShape code =>
    obtain ⟨sh, hsh⟩ := issue_setShape_of_send h
    rw [hsh] at h
    cases h; exact .control _ (.shape sh)
  | xfer | reserved7 | ctrl | freq | phase | tag10 => cases hp

/-- A public operation that gives a next state from a ready one has sent its two words after its shadow update. -/
theorem exec_public_ready {i : Instr} (hp : i.isPublic = true) {s t : State} (hr : Ready s) (h : exec i s = .next t) :
    ∃ s' a b, PublicSend s s' a b ∧ Sent s t a b ∧ SameShadows s' t ∧ SameSurroundings s t := by
  have hop := isOperation_of_isPublic hp
  obtain ⟨-, ⟨hb, -⟩ | ⟨s', a, b, -, hi, -⟩ | ⟨s', hi, -⟩⟩ := exec_next h
  · cases hr.1.symm.trans hb
  · obtain ⟨t', ht', hsent⟩ := exec_ready_sent hop hr hi
    obtain rfl : t' = t := by rw [h] at ht'; cases ht'; rfl
    exact ⟨s', a, b, issue_public hp hi, hsent⟩
  · exact absurd hi (issue_operation_ne_done hop s s')

theorem classify_freqWord (v : Nat) : classify (freqWord v) = .freq := classify_of_legalFreq (freqWord_legal v)

theorem phaseWordY_legal (v : Nat) : LegalPhase (phaseWordY v) := by
  have hle : clampP v ≤ Config.pmax := min_le_right v _
  unfold LegalPhase
  rw [phaseWordY_toNat]; omega

theorem phaseWordX_legal : LegalPhase phaseWordX := ⟨by decide, by decide⟩

theorem classify_phaseWordX : classify phaseWordX = .phase := classify_of_legalPhase phaseWordX_legal

theorem classify_phaseWordY (v : Nat) : classify (phaseWordY v) = .phase := classify_of_legalPhase (phaseWordY_legal v)

/-- What SETPHASE stores is what decodePhase reads from chip B's word. -/
theorem decodePhase_phaseWordY (v : Nat) : decodePhase (phaseWordY v) = .ok (phaseStored v) :=
  decodePhase_ok (phaseWordY_toNat v) (min_le_right v _)

/-- A word of another class at the end of a log leaves the last one of a class. -/
theorem lastOfClass_append_other {k : WireClass} {w : Word} (log : List Word) (h : classify w ≠ k) :
    lastOfClass k (log ++ [w]) = lastOfClass k log := by
  simp [lastOfClass, List.filter_append, h]

theorem lastOfClass_append_same {k : WireClass} {w : Word} (log : List Word) (h : classify w = k) :
    lastOfClass k (log ++ [w]) = some w := by
  simp [lastOfClass, List.filter_append, h]

/-- Settles O46: the last control word is the stored one after a control-word operation, the last phase word after SETPHASE, and
the other operations' words are of other classes. -/
theorem publicOperationsKeepShadowsReadable : Obligations.PublicOperationsKeepShadowsReadable := by
  intro i s t hp hr hlegal ⟨hA, hB, hph⟩ h
  obtain ⟨s', a, b, hsend, hsent, hshadows, hsurr⟩ := exec_public_ready hp hr h
  unfold LogsShowShadows
  rw [hsent.rxA, hsent.rxB, hshadows.cw, hshadows.ph, hsurr.params]
  cases hsend with
  | control _ hw =>
    have hk : classify a = .ctrl := classify_of_legalControl (hw.legal hlegal)
    rw [lastOfClass_append_same _ hk, lastOfClass_append_same _ hk, lastOfClass_append_other _ (by simp [hk])]
    exact ⟨rfl, rfl, hph⟩
  | freq s' x y hcw hph' =>
    have hkx := classify_freqWord x
    have hky := classify_freqWord y
    rw [lastOfClass_append_other _ (by simp [hkx]), lastOfClass_append_other _ (by simp [hky]),
      lastOfClass_append_other _ (by simp [hky]), hcw, hph']
    exact ⟨hA, hB, hph⟩
  | phase v =>
    have hky := classify_phaseWordY v
    rw [lastOfClass_append_other _ (by simp [classify_phaseWordX]), lastOfClass_append_other _ (by simp [hky]),
      lastOfClass_append_same _ hky]
    exact ⟨hA, hB, decodePhase_phaseWordY v⟩

/-- The two words of a public operation are a legal pair. -/
theorem PublicSend.pairLegal {s s' : State} {a b : Word} (h : PublicSend s s' a b) (hlegal : ControlLegal s) :
    PairLegal (a, b) := by
  cases h with
  | control _ hw =>
    have hmem : a ∈ controlWords := legalControl_iff_mem.1 (hw.legal hlegal)
    exact ⟨.inl hmem, .inl hmem, rfl, fun _ => rfl, by simp [classify_of_mem_controlWords hmem]⟩
  | freq s' x y _ _ =>
    have hkx := classify_freqWord x
    exact ⟨.inr (.inl (freqWord_legal x)), .inr (.inl (freqWord_legal y)), hkx.trans (classify_freqWord y).symm,
      by simp [hkx], by simp [hkx]⟩
  | phase v =>
    exact ⟨.inr (.inr phaseWordX_legal), .inr (.inr (phaseWordY_legal v)),
      classify_phaseWordX.trans (classify_phaseWordY v).symm, by simp [classify_phaseWordX], fun _ => rfl⟩

/-- A pair sent to logs of one length is the last of their pairs. -/
theorem logsPaired_of_sent {s t : State} {a b : Word} (hs : LogsPaired s) (h : Sent s t a b) (hp : PairLegal (a, b)) :
    LogsPaired t := by
  obtain ⟨hlen, hpairs⟩ := hs
  unfold LogsPaired
  rw [h.rxA, h.rxB, List.zip_append hlen]
  refine ⟨by simp [hlen], fun p hmem => ?_⟩
  obtain hold | hnew := List.mem_append.1 hmem
  · exact hpairs p hold
  · rw [List.mem_singleton.1 hnew]; exact hp

/-- Settles O47: each kind of words that a public operation sends is a legal pair, and the logs grow by it. -/
theorem publicOperationsKeepLogsPaired : Obligations.PublicOperationsKeepLogsPaired := by
  intro i s t hp hr hlegal hpaired h
  obtain ⟨s', a, b, hsend, hsent, -, -⟩ := exec_public_ready hp hr h
  have hpair := hsend.pairLegal hlegal
  exact ⟨logsPaired_of_sent hpaired hsent hpair, a, b, hsent, hpair⟩

/-! ### The half a frequency word is for (R167, R227) -/

/-- After a log that ends with a control word, the next word's half is that control word's. -/
theorem halfAt_after_control (log : List Word) {w : Word} (v : Word) (h : classify w = .ctrl) :
    halfAt (log ++ [w] ++ [v]) (log ++ [w]).length = some (w.getLsbD Config.bitHalf) := by
  rw [halfAt, List.take_left, lastOfClass_append_same log h, Option.map_some]

/-- Settles O48: SETRANGE's control word is the last word of both logs, and the frequency word is put after it. -/
theorem frequencyWordGoesToTheSelectedHalf : Obligations.FrequencyWordGoesToTheSelectedHalf := by
  intro hi s hr hlegal
  obtain ⟨t, ht, hsent, -, hsurr⟩ := exec_ready_sent (i := .setRange hi) rfl hr rfl
  have hrt := ready_of_sent hr hsent hsurr
  have hk : classify (putMask hi s.cw Config.maskHalf) = .ctrl :=
    classify_of_legalControl ((ControlUpdate.half hi).legal hlegal)
  have hbit : (putMask hi s.cw Config.maskHalf).getLsbD Config.bitHalf = hi :=
    getLsbD_putMask_of_mem hi s.cw (by decide)
  have hhalfA : ∀ v, halfAt (t.rx.rxA ++ [v]) t.rx.rxA.length = some hi := fun v => by
    rw [hsent.rxA, halfAt_after_control _ v hk, hbit]
  have hhalfB : ∀ v, halfAt (t.rx.rxB ++ [v]) t.rx.rxB.length = some hi := fun v => by
    rw [hsent.rxB, halfAt_after_control _ v hk, hbit]
  have hfreq : ∀ {i : Instr} {t' : State} {a b : Word}, i.isOperation = true → issue i t = .send t' a b →
      ∃ u, exec i t = .next u ∧ u.rx.rxA = t.rx.rxA ++ [a] ∧ halfAt u.rx.rxA t.rx.rxA.length = some hi ∧
        u.rx.rxB = t.rx.rxB ++ [b] ∧ halfAt u.rx.rxB t.rx.rxB.length = some hi := by
    intro i t' a b hop hissue
    obtain ⟨u, hu, hsent', -⟩ := exec_ready_sent hop hrt hissue
    refine ⟨u, hu, hsent'.rxA, ?_, hsent'.rxB, ?_⟩
    · rw [hsent'.rxA, hhalfA]
    · rw [hsent'.rxB, hhalfB]
  exact ⟨t, ht, fun v => hfreq rfl rfl, fun x y => hfreq rfl rfl⟩

/-! ### The reachable control words (R26) -/

/-- The code of a shape (R81). -/
def codeOfShape : Shape → Nat
  | .sine => 0
  | .triangle => 1
  | .square => 2

theorem shapeOfCode_codeOfShape (sh : Shape) : shapeOfCode (codeOfShape sh) = some sh := by
  cases sh <;> rfl

/-- The three operations that give the control word the fields of a triple. -/
def operationsFor (c : CtrlFields) : List Instr :=
  [.setShape (codeOfShape c.shape), .setReset c.reset, .setRange c.half]

/-- From CW = 0 the three updates give the triple's word. -/
theorem updates_encodeCtrl (c : CtrlFields) :
    putMask c.half (putMask c.reset (shapeUpdate c.shape 0) Config.maskReset) Config.maskHalf = encodeCtrl c := by
  obtain ⟨reset, half, shape⟩ := c
  cases reset <;> cases half <;> cases shape <;> decide

/-- An operation that sends a control word leaves a ready block with that control word. -/
theorem exec_ready_control_ready {i : Instr} {s : State} {w : Word} (hop : i.isOperation = true) (hr : Ready s)
    (hi : issue i s = issueControl w s) : ∃ t, exec i s = .next t ∧ t.cw = w ∧ Ready t := by
  obtain ⟨t, ht, hcw, hsent, -, -, -, hsurr⟩ := exec_ready_control hop hr hi
  exact ⟨t, ht, hcw, ready_of_sent hr hsent hsurr⟩

theorem execAll_operationsFor (c : CtrlFields) {s : State} (hr : Ready s) (hcw : s.cw = 0) :
    ∃ t, execAll (operationsFor c) s = .next t ∧ t.cw = encodeCtrl c := by
  obtain ⟨s1, h1, hcw1, hr1⟩ := exec_ready_control_ready rfl hr
    (issue_setShape_some s (shapeOfCode_codeOfShape c.shape))
  obtain ⟨s2, h2, hcw2, hr2⟩ := exec_ready_control_ready (i := .setReset c.reset) rfl hr1 rfl
  obtain ⟨s3, h3, hcw3, -⟩ := exec_ready_control_ready (i := .setRange c.half) rfl hr2 rfl
  refine ⟨s3, ?_, ?_⟩
  · simp only [operationsFor, execAll, h1, h2, h3, andThen_next]
  · rw [hcw3, hcw2, hcw1, hcw, updates_encodeCtrl]

theorem ready_resetWith (p : Config.Params) : Ready (State.resetWith p) := ⟨rfl, rfl, rfl, rfl⟩

/-- Settles O49: every legal control word is the word of a triple, which SETSHAPE, SETRESET and SETRANGE write from 0. -/
theorem everyControlWordIsReachable : Obligations.EveryControlWordIsReachable := by
  intro p w hw
  obtain ⟨c, rfl⟩ := mem_controlWords_iff.1 hw
  obtain ⟨t, ht, hcw⟩ := execAll_operationsFor c (ready_resetWith p) (resetWith_cw p)
  exact ⟨operationsFor c, t, le_rfl, by simp [operationsFor, Instr.isPublic], ht, hcw⟩

end Sys2Proof.Machine
end

/-! What the host's moves do, one equation for each, the faults a step can end in, and `rst` (60_exceptions.md,
70_reset_and_hazards.md). -/
section
namespace Sys2Proof.Machine

open Sys2Proof.Safety

/-! ### The host's moves and the port, case by case -/

section
variable {c : CmdWord} {s : State}

theorem runCommand_ok (rest : List HostMove) {i : Instr} (hb : s.busy = false)
    (h : decodeCommandRow s.params.exposeXfer c = .ok i) : runCommand c rest s = exec i (setHost rest s) := by
  simp [runCommand, cmdReady, hb, h]

theorem runCommand_error (rest : List HostMove) {r : Reserved} (hb : s.busy = false)
    (h : decodeCommandRow s.params.exposeXfer c = .error r) :
    runCommand c rest s = .next (markRefused (setHost rest s)) := by
  simp [runCommand, cmdReady, hb, h, issueReserved]

theorem runCommand_busy (rest : List HostMove) (hb : s.busy = true) : runCommand c rest s = microStep s := by
  simp [runCommand, cmdReady, hb]

theorem acceptTick_ok {i : Instr} (h : decodeCommandRow s.params.exposeXfer c = .ok i) :
    acceptTick c s = accept (issue i s) := by
  simp [acceptTick, h]

theorem acceptTick_error {r : Reserved} (h : decodeCommandRow s.params.exposeXfer c = .error r) :
    acceptTick c s = .next (markRefused s) := by
  simp [acceptTick, h, issueReserved]

theorem runWire_ok {w : Word} {i : Instr} (h : decodeWireRow w = .ok i) : runWire w s = exec i s := by
  simp [runWire, h]

theorem runWire_error {w : Word} {r : NotEmitted} (hf : s.stopped = none) (h : decodeWireRow w = .error r) :
    runWire w s = .next (recordAnswer (decodeWord w) s) := by
  simp [runWire, h, readWord, unlessStopped_none _ hf]

theorem tick_stopped (pins : PortIn) {f : Fault} (h : s.stopped = some f) : tick pins s = .fault f :=
  unlessStopped_some _ h

theorem tick_rst {pins : PortIn} (hf : s.stopped = none) (h : pins.rst = true) : tick pins s = rstTick s := by
  simp [tick, unlessStopped_none _ hf, h]

theorem tick_accepts {pins : PortIn} (hf : s.stopped = none) (h : pins.rst = false) (hv : pins.cmdValid = true)
    (hb : s.busy = false) : tick pins s = acceptTick pins.cmd s := by
  simp [tick, unlessStopped_none _ hf, h, hv, cmdReady, hb]

theorem tick_waits {pins : PortIn} (hf : s.stopped = none) (h : pins.rst = false)
    (hb : pins.cmdValid = false ∨ s.busy = true) : tick pins s = microStep s := by
  rcases hb with hb | hb <;> simp [tick, unlessStopped_none _ hf, h, cmdReady, hb]

end

/-- A command word on the host's list that decodes is run with the move taken from the list, in a stopped run too, where
nothing runs. -/
theorem step_command {s : State} {c : CmdWord} {rest : List HostMove} {i : Instr}
    (hhost : s.host = .command c :: rest) (hb : s.busy = false)
    (h : decode s.params.exposeXfer (.command c) = .ok i) : step s = exec i (setHost rest s) := by
  cases hf : s.stopped with
  | some f => rw [step_stopped hf, exec_stopped i (s := setHost rest s) hf]
  | none =>
    rw [step_running hf, hhost]
    exact runCommand_ok rest hb (decode_command_eq_ok_iff.1 h)

theorem step_wire {s : State} {w : Word} {rest : List HostMove} {i : Instr} {expose : Bool}
    (hhost : s.host = .wire w :: rest) (h : decode expose (.wire w) = .ok i) : step s = exec i (setHost rest s) := by
  cases hf : s.stopped with
  | some f => rw [step_stopped hf, exec_stopped i (s := setHost rest s) hf]
  | none =>
    rw [step_running hf, hhost]
    exact runWire_ok (decode_wire_eq_ok_iff.1 h)

/-- Settles O36: the move at the head of the list is the command or the wire word, and its row is the one that decodes. -/
theorem stepRunsTheDecodedInstruction : Obligations.StepRunsTheDecodedInstruction :=
  ⟨fun _ _ _ _ hhost hb h => step_command hhost hb h, fun _ _ _ _ hhost h => step_wire hhost h⟩

/-! ### A word presented by withFetchWord (log entries 4 and 5) -/

theorem decodeTableWord_eq_some_iff {nbits w : Nat} {i : Instr} :
    decodeTableWord nbits w = some i ↔ ∃ e, tableWord nbits w = some e ∧ decode true e = .ok i := by
  cases ht : tableWord nbits w with
  | none => simp [decodeTableWord, ht]
  | some e => cases hd : decode true e <;> simp [decodeTableWord, ht, hd]

/-- XFER alone has the operation field 0 (R88). -/
theorem cmdOp_encode_eq_zero_iff {i : Instr} {c : CmdWord} (h : encode i = .command c) :
    cmdOp c = 0 ↔ ∃ a b, i = .xfer a b := by
  cases i with
  | ctrl | freq | phase | tag10 => cases h
  | _ => cases h; simp

/-- Presenting another operation changes no parameter. -/
theorem exposeFor_other {c : CmdWord} (p : Config.Params) (h : cmdOp c ≠ 0) : exposeFor c p = p := by
  rw [exposeFor, beq_false_of_ne h, Bool.or_false]

/-- A word that decodes where XFER is exposed decodes to the same instruction where it is not, unless it is XFER. -/
theorem decode_of_exposed {e : Encoded} {i : Instr} (expose : Bool) (h : decode true e = .ok i)
    (hx : expose = true ∨ ∀ a b, i ≠ .xfer a b) : decode expose e = .ok i := by
  obtain ⟨rfl, hwf⟩ := encodeUndoesDecode e true i h
  exact decode_encode expose hwf hx

/-- Settles O37: the presented word stands at the head of the host's list, and the row XFER is exposed for it alone. -/
theorem presentedWordRunsNext : Obligations.PresentedWordRunsNext := by
  intro s nbits w i hb h
  obtain ⟨e, ht, hd⟩ := decodeTableWord_eq_some_iff.1 h
  have hplace : s.withFetchWord nbits w = placeWord (some e) s := by rw [State.withFetchWord, ht]
  obtain ⟨henc, -⟩ := encodeUndoesDecode e true i hd
  rw [hplace]
  cases e with
  | wire v =>
    refine ⟨s.params, step_wire (rest := s.host) rfl hd, fun _ => rfl, ?_⟩
    rintro ⟨a, b, rfl⟩
    cases henc
  | command c =>
    have hop := cmdOp_encode_eq_zero_iff henc
    refine ⟨exposeFor c s.params, step_command (rest := s.host) rfl hb (decode_of_exposed _ hd ?_), fun hx => ?_,
      fun hx => ?_⟩
    · by_cases hx : ∃ a b, i = .xfer a b
      · exact .inl (by simp [placeWord, exposeFor, hop.2 hx])
      · exact .inr fun a b hi => hx ⟨a, b, hi⟩
    · refine exposeFor_other s.params fun h0 => ?_
      obtain ⟨a, b, hi⟩ := hop.1 h0
      exact hx a b hi
    · simp [exposeFor, hop.2 hx]

/-! ### Reserved command words and commands held while busy (R186, R187) -/

/-- Settles O28: RESERVED7 asks for nothing but the mark. -/
theorem reservedSevenIsDropped : Obligations.ReservedSevenIsDropped := by
  intro u s hf hb
  rw [exec_command s (.inr ⟨u, rfl⟩), present_ready _ s hb hf]
  rfl

/-- A word that decodeCmd refuses is refused by the table's decoder too, or is its row RESERVED7. -/
theorem decodeCommandRow_of_error {expose : Bool} {c : CmdWord} {r : Reserved} (h : decodeCmd expose c = .error r) :
    decodeCommandRow expose c = .error r ∨ ∃ u, decodeCommandRow expose c = .ok (.reserved7 u) := by
  by_cases hop : cmdOp c = 7
  · exact .inr ⟨_, decodeCommandRow_seven expose hop⟩
  · exact .inl ((decodeCommandRow_other expose hop).trans h)

/-- Settles O29: refused by the decoder or decoded as RESERVED7, the word leaves the mark, at either level. -/
theorem reservedWordIsDropped : Obligations.ReservedWordIsDropped := by
  intro c s r hf hb h
  have haccept : tick (presents c) s = acceptTick c s := tick_accepts hf rfl rfl hb
  obtain hrow | ⟨u, hrow⟩ := decodeCommandRow_of_error h
  · refine ⟨fun rest hhost => ?_, ?_⟩
    · rw [step_running hf, hhost]
      exact runCommand_error rest hb hrow
    · rw [haccept, acceptTick_error hrow]
      rfl
  · refine ⟨fun rest hhost => ?_, ?_⟩
    · rw [step_command hhost hb (decode_command_eq_ok_iff.2 hrow)]
      exact reservedSevenIsDropped u (setHost rest s) hf hb
    · rw [haccept, acceptTick_ok hrow]
      rfl

/-- Settles O30: every way of presenting a command asks first whether the block is ready. -/
theorem busyHoldsTheCommand : Obligations.BusyHoldsTheCommand := by
  intro s hf hb
  refine ⟨fun i hop => ?_, fun u => ?_, fun c rest hhost => ?_, fun c => tick_waits hf rfl (.inr hb), fun t h => ?_⟩
  · rw [exec_command s (.inl hop), present_busy _ s hb hf]
  · rw [exec_command s (.inr ⟨u, rfl⟩), present_busy _ s hb hf]
  · rw [step_running hf, hhost]
    exact runCommand_busy rest hb
  · have hk := kept_microStep h
    exact ⟨hk.shadows, hk.surroundings⟩

/-! ### The wire rows (R71 to R74, R164) -/

theorem readWord_running (w : Word) {s : State} (hf : s.stopped = none) :
    readWord w s = .next (recordAnswer (decodeWord w) s) := unlessStopped_none _ hf

theorem decodeWord_ctrlWord (half reset hi lo : Bool) : decodeWord (ctrlWord half reset hi lo) =
    if hi = true ∧ lo = true then .notEmitted .unreachableShape
    else .ctrl ⟨reset, half, if hi = true then .square else if lo = true then .triangle else .sine⟩ := by
  have hk : classify (ctrlWord half reset hi lo) = .ctrl := by revert half reset hi lo; decide
  have hd := decodeCtrl_ctrlWord half reset hi lo
  by_cases hboth : hi = true ∧ lo = true
  · rw [if_pos hboth] at hd ⊢
    exact decodeWord_eq_notEmitted_iff.2 (.inl ⟨hk, hd⟩)
  · rw [if_neg hboth] at hd ⊢
    exact decodeWord_eq_ctrl_iff.2 ⟨hk, hd⟩

/-- Settles O31: the decoder's answer on the four field bits is kept. -/
theorem ctrlWordIsRead : Obligations.CtrlWordIsRead := by
  intro half reset hi lo s hf
  rw [← decodeWord_ctrlWord]
  exact readWord_running _ hf

theorem freqFormat_eq_encodeFreq (f : BitVec 14) : freqFormat f = encodeFreq f := by
  have h : (freqFormat f).toNat = (0b01#2 ++ f).toNat := rfl
  refine BitVec.eq_of_toNat_eq ?_
  rw [h, BitVec.toNat_append, ← Nat.shiftLeft_add_eq_or_of_lt f.isLt, encodeFreq_toNat, Nat.add_comm]
  rfl

theorem phaseFormat_eq_encodePhase (p : BitVec 12) : phaseFormat p = encodePhase p := by
  have h : (phaseFormat p).toNat = (0b1100#4 ++ p).toNat := rfl
  refine BitVec.eq_of_toNat_eq ?_
  rw [h, BitVec.toNat_append, ← Nat.shiftLeft_add_eq_or_of_lt p.isLt, encodePhase_toNat, Nat.add_comm]
  rfl

theorem decodeWord_freqFormat (f : BitVec 14) : decodeWord (freqFormat f) =
    if f.toNat ≤ Config.fmax then .freq f else .notEmitted .aboveFmax := by
  rw [freqFormat_eq_encodeFreq]
  split
  case isTrue hf => exact decodeWord_encodeFreq hf
  case isFalse hf =>
    exact decodeWord_eq_notEmitted_iff.2 (.inr (.inl ⟨classify_encodeFreq f,
      decodeFreq_aboveFmax (encodeFreq_toNat f) (by omega) f.isLt⟩))

theorem decodeWord_phaseFormat (p : BitVec 12) : decodeWord (phaseFormat p) = .phase p := by
  rw [phaseFormat_eq_encodePhase, decodeWord_encodePhase]

theorem decodeWord_tag10Format (u : BitVec 14) : decodeWord (tag10Format u) = .tag10 u := by
  have h15 : (tag10Format u).getLsbD 15 = true := tag10Format_getLsbD u 15
  have h14 : (tag10Format u).getLsbD 14 = false := tag10Format_getLsbD u 14
  have hk : classify (tag10Format u) = .tag10 := by simp only [classify, h15, h14]
  exact decodeWord_eq_tag10_iff.2 ⟨hk, tag10Format_extract u⟩

/-- Settles O32: the decoder's answer on each format is kept. -/
theorem freqPhaseAndTagTenWordsAreRead : Obligations.FreqPhaseAndTagTenWordsAreRead := by
  refine ⟨fun f s hf => ?_, fun p s hf => ?_, fun u s hf => ?_⟩
  · rw [← decodeWord_freqFormat]
    exact readWord_running _ hf
  · rw [← decodeWord_phaseFormat]
    exact readWord_running _ hf
  · rw [← decodeWord_tag10Format]
    exact readWord_running _ hf

/-! ### Where an instruction can stop (R182, R189) -/

/-- An outcome that is no fault but, at most, a frame closed too short. -/
def OnlyTruncates (o : Host.Outcome State Fault Refusal) : Prop := ∀ f, o = .fault f → ∃ n, f = .truncatedFrame n

theorem onlyTruncates_next (s : State) : OnlyTruncates (.next s) := fun _ h => nomatch h

theorem onlyTruncates_drive (e : LineEvent) (s : State) : OnlyTruncates (drive e s) :=
  fun _ h => ⟨_, (drive_fault h).1⟩

theorem OnlyTruncates.andThen {o : Host.Outcome State Fault Refusal} {k : State → Host.Outcome State Fault Refusal}
    (ho : OnlyTruncates o) (hk : ∀ s, OnlyTruncates (k s)) : OnlyTruncates (andThen o k) := by
  cases o with
  | next s => exact hk s
  | fault f => exact ho
  | refused r => exact fun _ h => nomatch h

theorem onlyTruncates_bitPeriods (n : Nat) (s : State) : OnlyTruncates (bitPeriods n s) := by
  induction n generalizing s with
  | zero => exact onlyTruncates_next s
  | succ n ih =>
    have hperiod : OnlyTruncates (bitPeriod s) := (onlyTruncates_drive _ _).andThen fun _ =>
      (onlyTruncates_drive _ _).andThen fun _ => (onlyTruncates_drive _ _).andThen fun _ => onlyTruncates_next _
    exact hperiod.andThen ih

theorem onlyTruncates_transfer (a b : Word) (s : State) : OnlyTruncates (transfer a b s) :=
  (onlyTruncates_drive _ _).andThen fun _ => (onlyTruncates_bitPeriods _ _).andThen fun _ =>
    (onlyTruncates_drive _ _).andThen fun _ => (onlyTruncates_drive _ _).andThen fun _ => onlyTruncates_next _

theorem onlyTruncates_microStep (s : State) : OnlyTruncates (microStep s) := by
  cases hp : s.phase <;> simp only [microStep, hp]
  case idle => exact onlyTruncates_next s
  case clkLo =>
    refine (onlyTruncates_drive _ _).andThen fun _ => ?_
    split <;> exact onlyTruncates_next _
  all_goals exact (onlyTruncates_drive _ _).andThen fun _ => onlyTruncates_next _

/-- Of the instructions of a running block SETSHAPE alone stops with IllegalShape, and only for its own bad code. -/
theorem exec_illegalShape {i : Instr} {s : State} {code : Nat} (hf : s.stopped = none)
    (h : exec i s = .fault (.illegalShape code)) : i = .setShape code ∧ 3 ≤ code := by
  have hengine : ∀ {o}, OnlyTruncates o → o ≠ .fault (.illegalShape code) := fun ho he => by
    obtain ⟨n, hn⟩ := ho _ he
    cases hn
  have hissue : complete (issue i s) = .fault (.illegalShape code) → i = .setShape code ∧ 3 ≤ code := by
    intro hc
    cases hi : issue i s with
    | send s' a b => rw [hi] at hc; exact absurd hc (hengine (onlyTruncates_transfer a b s'))
    | done s' => rw [hi] at hc; cases hc
    | stop f =>
      rw [hi] at hc
      obtain ⟨code', rfl, rfl, hnone⟩ := issue_stop hi
      cases hc
      exact ⟨rfl, shapeOfCode_none.1 hnone⟩
  by_cases hcmd : i.isOperation = true ∨ ∃ u, i = .reserved7 u
  · rw [exec_command s hcmd] at h
    cases hb : s.busy with
    | false => rw [present_ready _ s hb hf] at h; exact hissue h
    | true => rw [present_busy _ s hb hf] at h; exact absurd h (hengine (onlyTruncates_microStep s))
  · obtain ⟨hop, hr⟩ := not_or.1 hcmd
    rw [exec_wire s (by simpa using hop) (fun u hu => hr ⟨u, hu⟩), unlessStopped_none _ hf] at h
    exact hissue h

/-- Settles O25: the engine raises no such fault, the issue of SETSHAPE alone does, and the port's code has two bits. -/
theorem illegalShapeOnlyFromSetShape : Obligations.IllegalShapeOnlyFromSetShape := by
  refine ⟨fun code s hf hb h => exec_setShape_illegal hb hf h, fun i s code hf h => exec_illegalShape hf h,
    fun c expose code h hcode => ?_⟩
  obtain ⟨-, hwf⟩ := encode_of_decodeCmd h
  have hlt : code < 4 := of_decide_eq_true hwf
  omega

/-- Where the engine and the lines agree, the engine's next micro-step can be made (R52). -/
theorem microStep_completes {s : State} (hs : EngineAgrees s) : ∃ t, microStep s = .next t := by
  cases hp : s.phase with
  | idle => exact ⟨_, microStep_idle s hp⟩
  | data => exact ⟨_, microStep_data s hp⟩
  | clkHi => exact ⟨_, microStep_clkHi s hp⟩
  | park => exact ⟨_, microStep_park s hp⟩
  | start =>
    simp only [EngineAgrees, hp] at hs
    obtain ⟨-, hf, -⟩ := hs
    exact ⟨_, microStep_start s hp hf⟩
  | clkLo =>
    simp only [EngineAgrees, hp] at hs
    obtain ⟨-, hf, hk, -⟩ := hs
    by_cases hc : 1 < s.cnt.toNat
    · exact ⟨_, microStep_clkLo_more s hp hf hk hc⟩
    · exact ⟨_, microStep_clkLo_last s hp hf hk hc⟩
  | stop =>
    simp only [EngineAgrees, hp] at hs
    obtain ⟨-, hf, -, -, hA, -⟩ := hs
    exact ⟨_, microStep_stop s hp hf hA⟩

/-- What an instruction asks for is done, from idle lines, unless it is a SETSHAPE with a bad code. -/
theorem complete_issue_or_illegal (i : Instr) {s : State} (hl : s.lines.fsync = true) :
    (∃ t, complete (issue i s) = .next t) ∨
    ∃ code, i = .setShape code ∧ 3 ≤ code ∧ issue i s = .stop (.illegalShape code) := by
  cases hi : issue i s with
  | send s' a b => exact .inl ⟨_, transfer_spec a b s' (by rw [(issue_send hi).lines, hl])⟩
  | done s' => exact .inl ⟨s', rfl⟩
  | stop f =>
    obtain ⟨code, rfl, rfl, hnone⟩ := issue_stop hi
    exact .inr ⟨code, rfl, shapeOfCode_none.1 hnone, rfl⟩

/-- Settles O39: a busy block makes its micro-step, a ready one does what the instruction asks for, a wire word is read. -/
theorem everyInstructionCompletes : Obligations.EveryInstructionCompletes := by
  intro i s hs hf
  by_cases hcmd : i.isOperation = true ∨ ∃ u, i = .reserved7 u
  · rw [exec_command s hcmd]
    cases hb : s.busy with
    | true => rw [present_busy _ s hb hf]; exact .inl (microStep_completes hs)
    | false =>
      obtain ⟨-, hl, -⟩ := agrees_ready hs hb
      rw [present_ready _ s hb hf]
      obtain hnext | ⟨code, hi, hcode, hstop⟩ := complete_issue_or_illegal i hl
      · exact .inl hnext
      · exact .inr ⟨code, hi, hcode, rfl, by rw [hstop, complete_stop]⟩
  · obtain ⟨hop, hr⟩ := not_or.1 hcmd
    rw [exec_wire s (by simpa using hop) (fun u hu => hr ⟨u, hu⟩), unlessStopped_none _ hf]
    cases i with
    | ctrl | freq | phase | tag10 => exact .inl ⟨_, rfl⟩
    | reserved7 u => exact absurd ⟨u, rfl⟩ hr
    | _ => exact absurd rfl hop

/-! ### Where a step can stop (R52, R190) -/

/-- The two ways a move of the block itself can end: in a next state, or in the fault of a bad shape code at a ready block. -/
def NextOrIllegal (s : State) (o : Host.Outcome State Fault Refusal) : Prop :=
  (∃ t, o = .next t) ∨ ∃ code, o = .fault (.illegalShape code) ∧ 3 ≤ code ∧ s.busy = false

theorem exec_nextOrIllegal (i : Instr) {s : State} (hs : EngineAgrees s) (hf : s.stopped = none) :
    NextOrIllegal s (exec i s) := by
  obtain h | ⟨code, -, hcode, hb, h⟩ := everyInstructionCompletes i s hs hf
  · exact .inl h
  · exact .inr ⟨code, h, hcode, hb⟩

theorem accept_nextOrIllegal (i : Instr) {s : State} (hb : s.busy = false) :
    NextOrIllegal s (accept (issue i s)) := by
  cases hi : issue i s with
  | send s' a b => exact .inl ⟨_, rfl⟩
  | done s' => exact .inl ⟨_, rfl⟩
  | stop f =>
    obtain ⟨code, -, rfl, hnone⟩ := issue_stop hi
    exact .inr ⟨code, rfl, shapeOfCode_none.1 hnone, hb⟩

/-- `rst` always resets the block, whether or not it records a fault (R210). -/
theorem rstTick_completes (s : State) : ∃ t, rstTick s = .next t := by
  cases h : rstVerdict s <;> simp [rstTick, h]

theorem tick_nextOrIllegal (pins : PortIn) {s : State} (hs : EngineAgrees s) (hf : s.stopped = none) :
    NextOrIllegal s (tick pins s) := by
  cases hrst : pins.rst with
  | true => rw [tick_rst hf hrst]; exact .inl (rstTick_completes s)
  | false =>
    by_cases hwait : pins.cmdValid = false ∨ s.busy = true
    · rw [tick_waits hf hrst hwait]
      exact .inl (microStep_completes hs)
    · obtain ⟨hv, hb⟩ : pins.cmdValid = true ∧ s.busy = false := by simpa using hwait
      rw [tick_accepts hf hrst hv hb]
      cases hd : decodeCommandRow s.params.exposeXfer pins.cmd with
      | ok i => rw [acceptTick_ok hd]; exact accept_nextOrIllegal i hb
      | error r => rw [acceptTick_error hd]; exact .inl ⟨_, rfl⟩

/-- Every move of the host but a foreign write ends in one of the two ways. -/
theorem runMove_nextOrIllegal {s : State} (hs : EngineAgrees s) (hf : s.stopped = none) (moves : List HostMove) :
    NextOrIllegal s (runMove moves s) ∨
      (runMove moves s = .fault .pinInterference ∧ ∃ e rest, moves = .foreign e :: rest) := by
  match moves with
  | [] => exact .inl (.inl (microStep_completes hs))
  | .foreign e :: rest => exact .inr ⟨rfl, e, rest, rfl⟩
  | .tick pins :: rest => exact .inl (tick_nextOrIllegal pins (s := setHost rest s) hs hf)
  | .wire w :: rest =>
    refine .inl ?_
    rw [runMove]
    cases hd : decodeWireRow w with
    | ok i => rw [runWire_ok hd]; exact exec_nextOrIllegal i (s := setHost rest s) hs hf
    | error r => rw [runWire_error (s := setHost rest s) hf hd]; exact .inl ⟨_, rfl⟩
  | .command c :: rest =>
    refine .inl ?_
    rw [runMove]
    cases hb : s.busy with
    | true => rw [runCommand_busy rest hb]; exact .inl (microStep_completes hs)
    | false =>
      cases hd : decodeCommandRow s.params.exposeXfer c with
      | ok i => rw [runCommand_ok rest hb hd]; exact exec_nextOrIllegal i (s := setHost rest s) hs hf
      | error r => rw [runCommand_error rest hb hd]; exact .inl ⟨_, rfl⟩

/-- Settles O38: a stopped run gives its recorded fault, and a running one makes the host's move. -/
theorem onlyTheseFaultsCanHappen : Obligations.OnlyTheseFaultsCanHappen := by
  intro s hs
  cases hf : s.stopped with
  | some f =>
    rw [step_stopped hf]
    exact ⟨nofun, fun f' h => by cases h; exact .inr (.inr rfl)⟩
  | none =>
    rw [step_running hf]
    obtain (⟨t, ht⟩ | ⟨code, ht, hcode, hb⟩) | ⟨ht, hforeign⟩ := runMove_nextOrIllegal hs hf s.host
    · rw [ht]; exact ⟨nofun, nofun⟩
    · rw [ht]; exact ⟨nofun, fun f h => by cases h; exact .inl ⟨code, rfl, hcode, hb⟩⟩
    · rw [ht]; exact ⟨nofun, fun f h => by cases h; exact .inr (.inl ⟨rfl, hforeign⟩)⟩

/-! ### The input rst (R210, R224) -/

section
variable {s : State}

theorem rstVerdict_outside (h : s.lines.fsync = true) : rstVerdict s = .ok s.rx :=
  observe_outside _ _ _ h rfl

theorem rstVerdict_whole (h : s.lines.fsync = false) (hl : s.rx.ba.length = 16) : rstVerdict s = .ok { s.rx with
    rxA := s.rx.rxA ++ [wordOfBits s.rx.ba], rxB := s.rx.rxB ++ [wordOfBits s.rx.bb] } :=
  observe_closes _ _ _ h rfl hl

theorem rstVerdict_truncated (h : s.lines.fsync = false) (hl : s.rx.ba.length ≠ 16) :
    rstVerdict s = .error s.rx.ba.length :=
  observe_truncated _ _ _ h rfl hl

theorem rstTick_ok {r : Receiver} (h : rstVerdict s = .ok r) : rstTick s = .next (afterRst s) := by
  simp [rstTick, h]

theorem rstTick_error {n : Nat} (h : rstVerdict s = .error n) :
    rstTick s = .next (recordFault (.truncatedFrame n) (afterRst s)) := by
  simp [rstTick, h]

/-- Outside a frame, and in a frame of 16 bits, `rst` records nothing. -/
theorem tick_rst_whole {pins : PortIn} (hf : s.stopped = none) (hrst : pins.rst = true)
    (h : s.lines.fsync = true ∨ s.rx.ba.length = 16) : tick pins s = .next (afterRst s) := by
  rw [tick_rst hf hrst]
  cases hl : s.lines.fsync with
  | true => exact rstTick_ok (rstVerdict_outside hl)
  | false => exact rstTick_ok (rstVerdict_whole hl (h.resolve_left (by simp [hl])))

/-- In an open frame of another length it records the number of sampled bits. -/
theorem tick_rst_truncated {pins : PortIn} (hf : s.stopped = none) (hrst : pins.rst = true)
    (h : s.lines.fsync = false) (hl : s.rx.ba.length ≠ 16) :
    tick pins s = .next (recordFault (.truncatedFrame s.rx.ba.length) (afterRst s)) := by
  rw [tick_rst hf hrst, rstTick_error (rstVerdict_truncated h hl)]

end

/-- Settles O53: the frame is open and short, or it is not; the block is reset in both cases. -/
theorem rstRestoresEveryElement : Obligations.RstRestoresEveryElement := by
  intro s pins hf hrst
  by_cases hwhole : s.lines.fsync = true ∨ s.rx.ba.length = 16
  · refine ⟨none, ?_, fun _ => rfl, fun hl hn => ?_⟩
    · rw [tick_rst_whole hf hrst hwhole, afterRst, hf]
    · obtain h | h := hwhole
      · cases hl.symm.trans h
      · exact absurd h hn
  · obtain ⟨hl, hn⟩ : s.lines.fsync = false ∧ s.rx.ba.length ≠ 16 := by simpa using hwhole
    exact ⟨_, tick_rst_truncated hf hrst hl hn, fun h => absurd h hwhole, fun _ _ => rfl⟩

/-- In DATA, CLKHI and CLKLO the frame is open and has one bit for each period done (R109). -/
theorem agrees_inFrame {s : State} (hs : EngineAgrees s)
    (hp : s.phase = .data ∨ s.phase = .clkHi ∨ s.phase = .clkLo) :
    s.lines.fsync = false ∧ 1 ≤ s.cnt.toNat ∧ s.cnt.toNat ≤ 16 ∧ s.rx.ba.length + s.cnt.toNat = 16 := by
  obtain hp | hp | hp := hp <;> simp only [EngineAgrees, hp] at hs
  · obtain ⟨-, hf, hlo, hhi, hA, -⟩ := hs
    exact ⟨hf, hlo, hhi, hA⟩
  · obtain ⟨-, hf, hlo, hhi, hA, -⟩ := hs
    exact ⟨hf, hlo, hhi, hA⟩
  · obtain ⟨-, hf, -, hlo, hhi, hA, -⟩ := hs
    exact ⟨hf, hlo, hhi, hA⟩

/-- In IDLE, START and PARK no frame is open. -/
theorem agrees_outside {s : State} (hs : EngineAgrees s)
    (hp : s.phase = .idle ∨ s.phase = .start ∨ s.phase = .park) : s.lines.fsync = true := by
  obtain hp | hp | hp := hp <;> simp only [EngineAgrees, hp] at hs <;> obtain ⟨-, hf, -⟩ := hs <;> exact hf

/-- Settles O54: the phase tells whether a frame is open and how many bits it has. -/
theorem rstInAFrameTruncatesIt : Obligations.RstInAFrameTruncatesIt := by
  intro s pins hf hrst hs
  refine ⟨fun hp => ?_, fun hp => ?_, fun hp => ?_⟩
  · obtain ⟨hl, hlo, hhi, hA⟩ := agrees_inFrame hs hp
    have hcount : s.rx.ba.length = 16 - s.cnt.toNat := by omega
    refine ⟨by omega, _, tick_rst_truncated hf hrst hl (by omega), ?_⟩
    rw [recordFault_stopped, hcount]
  · have hl := agrees_outside hs hp
    exact ⟨rstVerdict_outside hl, _, tick_rst_whole hf hrst (.inl hl), hf⟩
  · simp only [EngineAgrees, hp] at hs
    obtain ⟨-, hl, -, -, hA, -⟩ := hs
    exact ⟨rstVerdict_whole hl hA, _, tick_rst_whole hf hrst (.inr hA), hf⟩

/-! ### Records (R185, R186, R190) -/

/-- The refused mark is set by a reserved word and never cleared, not even by `rst`. -/
theorem runRefused_stepInvariant : StepInvariant (fun s => s.runRefused = true) where
  host _ hs := hs
  marked _ := rfl
  answered _ hs := hs
  send h hs := (issue_send_surroundings h).runRefused.trans hs
  loaded _ _ hs := hs
  transferred h hs := (kept_transfer h).surroundings.runRefused.trans hs
  micro h hs := (kept_microStep h).surroundings.runRefused.trans hs
  restarted hs := hs
  truncated _ hs := hs

/-- Without `rst` no fault is recorded. -/
theorem running_runInvariant : RunInvariant (fun s => s.stopped = none) where
  host _ hs := hs
  marked hs := hs
  answered _ hs := hs
  send h hs := (issue_send_surroundings h).stopped.trans hs
  loaded _ _ hs := hs
  transferred h hs := (kept_transfer h).surroundings.stopped.trans hs
  micro h hs := (kept_microStep h).surroundings.stopped.trans hs

section
variable {P : State → Prop}

theorem RunInvariant.tick (hP : RunInvariant P) {pins : PortIn} (hrst : pins.rst = false) {s t : State}
    (h : tick pins s = .next t) (hs : P s) : P t := by
  obtain ⟨hf, -⟩ := tick_next h
  by_cases hwait : pins.cmdValid = false ∨ s.busy = true
  · rw [tick_waits hf hrst hwait] at h
    exact hP.micro h hs
  · obtain ⟨hv, hb⟩ : pins.cmdValid = true ∧ s.busy = false := by simpa using hwait
    rw [tick_accepts hf hrst hv hb] at h
    cases hd : decodeCommandRow s.params.exposeXfer pins.cmd with
    | ok i => rw [acceptTick_ok hd] at h; exact hP.accept h hs
    | error r => rw [acceptTick_error hd] at h; cases h; exact hP.marked hs

/-- What the parts of a step without `rst` keep, every step keeps but a tick with `rst`. -/
theorem RunInvariant.step_or_rst (hP : RunInvariant P) {s t : State} (h : step s = .next t) (hs : P s) :
    P t ∨ ∃ pins rest, s.host = .tick pins :: rest ∧ pins.rst = true := by
  obtain ⟨hf, -⟩ := step_next h
  have hrest : ∀ rest, P (setHost rest s) := fun rest => hP.host rest hs
  rw [step_running hf] at h
  match hhost : s.host with
  | [] => rw [hhost] at h; exact .inl (hP.micro h hs)
  | .foreign e :: rest => rw [hhost] at h; cases h
  | .tick pins :: rest =>
    rw [hhost] at h
    cases hrst : pins.rst with
    | true => exact .inr ⟨pins, rest, rfl, hrst⟩
    | false => exact .inl (hP.tick hrst h (hrest rest))
  | .wire w :: rest =>
    rw [hhost, runMove] at h
    cases hd : decodeWireRow w with
    | ok i => rw [runWire_ok hd] at h; exact .inl (hP.exec h (hrest rest))
    | error r =>
      rw [runWire_error (s := setHost rest s) hf hd] at h
      cases h; exact .inl (hP.answered _ (hrest rest))
  | .command c :: rest =>
    rw [hhost, runMove] at h
    cases hb : s.busy with
    | true => rw [runCommand_busy rest hb] at h; exact .inl (hP.micro h hs)
    | false =>
      cases hd : decodeCommandRow s.params.exposeXfer c with
      | ok i => rw [runCommand_ok rest hb hd] at h; exact .inl (hP.exec h (hrest rest))
      | error r =>
        rw [runCommand_error rest hb hd] at h
        cases h; exact .inl (hP.marked (hrest rest))

end

/-- Settles O55: the mark is kept by every part of a step, and that no fault is recorded by every part but `rst`. -/
theorem recordsAreNeverCleared : Obligations.RecordsAreNeverCleared := by
  intro s t h
  obtain ⟨hf, -⟩ := step_next h
  refine ⟨hf, runRefused_stepInvariant.step h, fun hstopped => ?_⟩
  exact (running_runInvariant.step_or_rst h hf).resolve_left hstopped

/-- Settles O56: a stopped run gives its record whatever is tried, and `rst` in a short frame stops the run. -/
theorem recordedFaultStopsTheRun : Obligations.RecordedFaultStopsTheRun := by
  refine ⟨fun s f hf => ⟨step_stopped hf, fun i => exec_stopped i hf, fun pins => tick_stopped pins hf⟩,
    fun s pins rest hf hhost hrst hl hn n => ?_⟩
  have hfirst : step s =
      .next (recordFault (.truncatedFrame s.rx.ba.length) (afterRst (setHost rest s))) := by
    rw [step_running hf, hhost]
    exact tick_rst_truncated (s := setHost rest s) hf hrst hl hn
  rw [steps, hfirst, andThen_next, steps, step_stopped (recordFault_stopped ..), andThen_fault]

end Sys2Proof.Machine
end

/-! The two levels of 92_eei_decisions.md D2, and commands in issue order (40_transfer.md, 20_memory.md, 70). -/
section
namespace Sys2Proof.Machine

open Sys2Proof.Safety

/-! ### Micro-steps in a row -/

/-- `k` micro-steps of the engine. -/
def microSteps : Nat → State → Host.Outcome State Fault Refusal
  | 0, s => .next s
  | k + 1, s => andThen (microStep s) (microSteps k)

@[simp] theorem microSteps_zero (s : State) : microSteps 0 s = .next s := rfl

theorem microSteps_succ_of_next {s t : State} (k : Nat) (h : microStep s = .next t) :
    microSteps (k + 1) s = microSteps k t := by
  rw [microSteps, h, andThen_next]

@[simp] theorem microSteps_one (s : State) : microSteps 1 s = microStep s := by
  rw [microSteps]
  cases microStep s <;> rfl

theorem microSteps_add (k n : Nat) (s : State) : microSteps (k + n) s = andThen (microSteps k s) (microSteps n) := by
  induction k generalizing s with
  | zero => rw [Nat.zero_add, microSteps_zero, andThen_next]
  | succ k ih => rw [Nat.add_right_comm, microSteps, microSteps, andThen_assoc, funext ih]

/-- The micro-steps left until the block is ready, 51 after acceptance (R108, R230). -/
def remaining (s : State) : Nat :=
  match s.phase with
  | .idle => 0
  | .start => 51
  | .data => 3 * s.cnt.toNat + 2
  | .clkHi => 3 * s.cnt.toNat + 1
  | .clkLo => 3 * s.cnt.toNat
  | .stop => 2
  | .park => 1

/-- The block is ready when no micro-step is left. -/
theorem remaining_eq_zero_iff {s : State} (hs : EngineAgrees s) : remaining s = 0 ↔ s.busy = false := by
  cases hp : s.phase <;> simp only [EngineAgrees, hp] at hs <;> simp only [remaining, hp, hs] <;> simp
  omega

/-- Each micro-step of a busy block is one less to make, and puts one event on TRACE. -/
theorem microStep_remaining {s t : State} (hs : EngineAgrees s) (hb : s.busy = true) (h : microStep s = .next t) :
    remaining s = remaining t + 1 ∧ t.trace.length = s.trace.length + 1 := by
  cases hp : s.phase with
  | idle => simp only [EngineAgrees, hp, hb] at hs; cases hs.1
  | start =>
    simp only [EngineAgrees, hp] at hs
    obtain ⟨-, hf, -, hc⟩ := hs
    rw [microStep_start s hp hf] at h
    cases h
    simp [remaining, hp, hc]
  | data => rw [microStep_data s hp] at h; cases h; simp [remaining, hp]
  | clkHi => rw [microStep_clkHi s hp] at h; cases h; simp [remaining, hp]
  | clkLo =>
    simp only [EngineAgrees, hp] at hs
    obtain ⟨-, hf, hk, hlo, -, -, -⟩ := hs
    by_cases hc : 1 < s.cnt.toNat
    · rw [microStep_clkLo_more s hp hf hk hc] at h
      have hdec : (s.cnt - 1).toNat = s.cnt.toNat - 1 := BitVec.toNat_sub_of_le (by bv_omega)
      cases h
      refine ⟨?_, by simp⟩
      simp only [remaining, hp, hdec]
      omega
    · rw [microStep_clkLo_last s hp hf hk hc] at h
      cases h
      refine ⟨?_, by simp⟩
      simp only [remaining, hp]
      omega
  | stop =>
    simp only [EngineAgrees, hp] at hs
    obtain ⟨-, hf, -, -, hA, -⟩ := hs
    rw [microStep_stop s hp hf hA] at h
    cases h
    simp [remaining, hp]
  | park => rw [microStep_park s hp] at h; cases h; simp [remaining, hp]

/-- As many micro-steps as are left can be made, one event each. -/
theorem microSteps_remaining (k : Nat) {s : State} (hs : EngineAgrees s) (hk : k ≤ remaining s) :
    ∃ t, microSteps k s = .next t ∧ EngineAgrees t ∧ Kept s t ∧ remaining s = remaining t + k ∧
      t.trace.length = s.trace.length + k := by
  induction k generalizing s with
  | zero => exact ⟨s, rfl, hs, Kept.refl s, rfl, rfl⟩
  | succ k ih =>
    have hb : s.busy = true := by
      rw [← Bool.not_eq_false, ← remaining_eq_zero_iff hs]; omega
    obtain ⟨u, hu⟩ := microStep_completes hs
    obtain ⟨hleft, hlen⟩ := microStep_remaining hs hb hu
    obtain ⟨t, ht, hagrees, hkept, hleft', hlen'⟩ := ih (microStep_keeps_agrees hs hu) (by omega)
    refine ⟨t, ?_, hagrees, (kept_microStep hu).trans hkept, by omega, by omega⟩
    rw [microSteps_succ_of_next k hu, ht]

/-- While micro-steps are left, a tick without `rst` makes one, whatever is presented at it (R187). -/
theorem ticks_eq_microSteps (pins : List PortIn) {s : State} (hs : EngineAgrees s) (hf : s.stopped = none)
    (hrst : ∀ p ∈ pins, p.rst = false) (hk : pins.length ≤ remaining s) :
    ticks pins s = microSteps pins.length s := by
  induction pins generalizing s with
  | nil => rfl
  | cons p pins ih =>
    rw [List.length_cons] at hk
    have hb : s.busy = true := by
      rw [← Bool.not_eq_false, ← remaining_eq_zero_iff hs]; omega
    obtain ⟨t, ht⟩ := microStep_completes hs
    obtain ⟨hleft, -⟩ := microStep_remaining hs hb ht
    have hft : t.stopped = none := (kept_microStep ht).surroundings.stopped.trans hf
    rw [ticks, tick_waits hf (hrst p List.mem_cons_self) (.inr hb), ht, andThen_next, List.length_cons,
      microSteps_succ_of_next _ ht]
    exact ih (microStep_keeps_agrees hs ht) hft (fun q hq => hrst q (List.mem_cons_of_mem p hq)) (by omega)

/-! ### The micro-steps of a transfer (R108, R102) -/

/-- Three micro-steps from DATA are a bit period, after which another bit is to be sent. -/
theorem microSteps_bitPeriod {s : State} (hp : s.phase = .data) (hf : s.lines.fsync = false)
    (hc : 1 < s.cnt.toNat) : microSteps 3 s = bitPeriod s := by
  rw [microSteps_succ_of_next 2 (microStep_data s hp), microSteps_succ_of_next 1 (microStep_clkHi _ rfl),
    microSteps_one, microStep_clkLo_more _ rfl (by exact hf) rfl (by exact hc), bitPeriod_inFrame s hf]
  simp [hf, ← hp]

/-- Three micro-steps from DATA with the last bit are a bit period, after which the frame is to be closed. -/
theorem microSteps_lastBitPeriod {s : State} (hp : s.phase = .data) (hf : s.lines.fsync = false)
    (hc : s.cnt = 1) : microSteps 3 s = andThen (bitPeriod s) fun u => .next (setPhase .stop u) := by
  rw [microSteps_succ_of_next 2 (microStep_data s hp), microSteps_succ_of_next 1 (microStep_clkHi _ rfl),
    microSteps_one, microStep_clkLo_last _ rfl (by exact hf) rfl (by simp [hc]), bitPeriod_inFrame s hf]
  simp [hf, hc, setPhase]

/-- The bit periods that CNT counts, one micro-step at a time, are the loop of R100. -/
theorem microSteps_bitPeriods (n : Nat) {s : State} (hp : s.phase = .data) (hf : s.lines.fsync = false)
    (hc : s.cnt.toNat = n + 1) :
    microSteps (3 * (n + 1)) s = andThen (bitPeriods (n + 1) s) fun u => .next (setPhase .stop u) := by
  induction n generalizing s with
  | zero =>
    have hone : s.cnt = 1 := BitVec.eq_of_toNat_eq hc
    simpa [bitPeriods, bitPeriod_inFrame s hf] using microSteps_lastBitPeriod hp hf hone
  | succ n ih =>
    have hdec : (s.cnt - 1).toNat = n + 1 := by bv_omega
    rw [show 3 * (n + 1 + 1) = 3 + 3 * (n + 1) by ring, microSteps_add, microSteps_bitPeriod hp hf (by omega),
      bitPeriods, bitPeriod_inFrame s hf, andThen_next, andThen_next]
    exact ih hp rfl hdec

/-- From acceptance on, 51 micro-steps are the transfer (R54, R108). -/
theorem microSteps_transfer (a b : Word) {s : State} (hf : s.lines.fsync = true) :
    microSteps 51 (load a b s) = .next (afterTransfer a b s) := by
  have hz : ∀ w : Word, w <<< 16 = 0 := fun w => by simp
  rw [show 51 = 3 * (15 + 1) + 2 + 1 from rfl, microSteps_succ_of_next _ (microStep_start _ (load_phase ..) hf),
    microSteps_add, microSteps_bitPeriods 15 rfl rfl rfl, bitPeriods_inFrame _ _ rfl, andThen_next, andThen_next,
    microSteps_succ_of_next 1 (microStep_stop _ rfl (by simp [setPhase, linesAfter_sixteen])
      (by simp [setPhase, topBits_length])),
    microSteps_one, microStep_park _ rfl]
  simp [afterTransfer, setPhase, load, linesAfter_sixteen, shiftedEvents_sixteen, wordOfBits_topBits, hz,
    transferEvents, Config.wordBits]

/-! ### The ticks of an operation (R86, R230) -/

/-- The tick at which a ready block accepts an operation loads its words. -/
theorem tick_presents_send {s s' : State} {c : CmdWord} {i : Instr} {a b : Word} (hr : Ready s)
    (hd : decodeCommandRow s.params.exposeXfer c = .ok i) (hi : issue i s = .send s' a b) :
    tick (presents c) s = .next (load a b s') := by
  obtain ⟨hb, -, -, hf⟩ := hr
  rw [tick_accepts hf rfl rfl hb]
  exact (acceptTick_ok hd).trans (by rw [hi, accept_send])

/-- What holds of a ready block after acceptance: the engine agrees with the lines and has 51 micro-steps to make. -/
theorem load_of_ready {i : Instr} {s s' : State} {a b : Word} (hr : Ready s) (hi : issue i s = .send s' a b) :
    EngineAgrees (load a b s') ∧ (load a b s').stopped = none ∧ remaining (load a b s') = 51 ∧
      s'.lines.fsync = true := by
  obtain ⟨-, hfsync, hsclk, hf⟩ := hr
  have hu := issue_send hi
  rw [← hu.lines] at hfsync hsclk
  exact ⟨agrees_load a b hfsync hsclk, hu.stopped.trans hf, rfl, hfsync⟩

/-- Settles O50: acceptance loads the words, the 51 ticks are micro-steps of a busy block, and these are the transfer; a bad
shape code faults at acceptance. -/
theorem ticksRefineTheOperation : Obligations.TicksRefineTheOperation := by
  intro s c i pins hr hd hop hlen hrst
  cases hi : issue i s with
  | send s' a b =>
    obtain ⟨hagrees, hf, hleft, hfsync⟩ := load_of_ready hr hi
    rw [ticks, tick_presents_send hr hd hi, andThen_next, ticks_eq_microSteps pins hagrees hf hrst (by omega), hlen,
      microSteps_transfer a b hfsync, exec_ready_send hop hr hi]
  | done s' => exact absurd hi (issue_operation_ne_done hop s s')
  | stop f =>
    obtain ⟨hb, -, -, hf⟩ := hr
    have hfirst : tick (presents c) s = accept (issue i s) := (tick_accepts hf rfl rfl hb).trans (acceptTick_ok hd)
    rw [ticks, hfirst, hi, exec_command s (.inl hop), present_ready _ s hb hf, hi]
    rfl

/-- Settles O51: after k ticks the engine has 51 - k micro-steps left, and TRACE has k events of what the transfer will have put
there. -/
theorem readyAgainAfterFiftyOneTicks : Obligations.ReadyAgainAfterFiftyOneTicks := by
  intro s c i pins hr hd hop hsh hlen hrst
  obtain ⟨s', a, b, hi⟩ := issue_operation_send hop hsh s
  obtain ⟨hagrees, hf, hleft, hfsync⟩ := load_of_ready hr hi
  have htrace : (load a b s').trace = s.trace := (issue_send hi).trace
  have hsent : Sent s (afterTransfer a b s') a b := sent_afterTransfer a b s s' (issue_send hi).trace (issue_send hi).rx
  refine ⟨afterTransfer a b s', a, b, exec_ready_send hop hr hi, hsent, fun k hk => ?_⟩
  obtain ⟨t, ht, htagrees, -, htleft, htlen⟩ := microSteps_remaining k hagrees (hk.trans hleft.ge)
  obtain ⟨u, hu, -, hkept, -⟩ := microSteps_remaining (51 - k) htagrees (by omega)
  obtain rfl : u = afterTransfer a b s' := by
    have hall := microSteps_transfer a b hfsync
    rw [← Nat.add_sub_cancel' hk, microSteps_add, ht, andThen_next, hu] at hall
    cases hall; rfl
  have htake : (pins.take k).length = k := by rw [List.length_take]; omega
  refine ⟨t, ?_, ?_, ?_⟩
  · rw [ticks, tick_presents_send hr hd hi, andThen_next, ticks_eq_microSteps _ hagrees hf
      (fun p hp => hrst p (List.mem_of_mem_take hp)) (by omega), htake, ht]
  · rw [List.prefix_iff_eq_take.1 hkept.trace, htlen, htrace, hsent.trace, List.take_length_add_append]
  · rw [cmdReady, Bool.not_eq_true', ← remaining_eq_zero_iff htagrees]
    omega

/-! ### Commands in issue order (R56) -/

/-- What an operation asks for does not depend on the host's moves. -/
theorem issue_setHost {i : Instr} {s s' : State} {a b : Word} (moves : List HostMove)
    (h : issue i s = .send s' a b) : issue i (setHost moves s) = .send (setHost moves s') a b := by
  cases i with
  | setShape code =>
    obtain ⟨sh, hsh⟩ := issue_setShape_of_send h
    rw [hsh] at h ⊢
    cases h; rfl
  | xfer | setReset | setRange | setFreq | setAxisFreq | setPhase => cases h; rfl
  | reserved7 | ctrl | freq | phase | tag10 => cases h

/-- Run with two lists of moves, a public operation sends one word to each chip and leaves states that differ in the list
alone. -/
theorem exec_ready_setHost {i : Instr} (hop : i.isOperation = true) (hsh : ShapeInSet i) {s : State} (hr : Ready s) :
    ∃ t a b, Sent s t a b ∧ SameSurroundings s t ∧
      ∀ moves, exec i (setHost moves s) = .next (setHost moves t) := by
  obtain ⟨s', a, b, hi⟩ := issue_operation_send hop hsh s
  obtain ⟨t, ht, hsent, -, hsurr⟩ := exec_ready_sent hop hr hi
  obtain rfl : afterTransfer a b s' = t := by
    rw [exec_ready_send hop hr hi] at ht
    cases ht; rfl
  exact ⟨_, a, b, hsent, hsurr, fun moves => exec_ready_send (s := setHost moves s) hop hr (issue_setHost moves hi)⟩

/-- A well-formed public operation at the head of a ready machine's list is run by the step. -/
theorem step_moveOf {i : Instr} (hp : i.isPublic = true) (hwf : i.wellFormed = true) {s : State}
    {rest : List HostMove} (hb : s.busy = false) (hhost : s.host = moveOf i :: rest) :
    step s = exec i (setHost rest s) := by
  have hx : ∀ a b, i ≠ .xfer a b := by
    rintro a b rfl
    cases hp
  have hd : decode s.params.exposeXfer (encode i) = .ok i := decode_encode _ hwf (.inr hx)
  cases henc : encode i with
  | command c =>
    rw [henc] at hd
    exact step_command (by rw [hhost, moveOf, henc]) hb hd
  | wire w =>
    rw [henc] at hd
    exact step_wire (by rw [hhost, moveOf, henc]) hd

/-- Settles O52: by induction on the list; each step takes the head of the list and runs it, and leaves a ready machine with the
rest of the list. -/
theorem commandsRunInIssueOrder : Obligations.CommandsRunInIssueOrder := by
  intro is
  induction is with
  | nil =>
    intro s hr _ hhost
    have ⟨hb, _, _, hf⟩ := hr
    have hempty : s.host = [] := hhost
    have hsame : { s with host := [] } = s := by rw [← hempty]
    exact ⟨s, rfl, congrArg _ hsame, hr, hempty, fun hp hm => ⟨hempty, hp, hb, hm, hf⟩, rfl, rfl⟩
  | cons i is ih =>
    intro s hr his hhost
    obtain ⟨hp, hwf, hsh⟩ := his i List.mem_cons_self
    obtain ⟨t, a, b, hsent, hsurr, hexec⟩ := exec_ready_setHost (isOperation_of_isPublic hp) hsh hr
    have hstep : step s = .next (setHost (is.map moveOf) t) := by
      rw [step_moveOf hp hwf hr.1 hhost, hexec]
    have hready : Ready t := ready_of_sent hr hsent hsurr
    obtain ⟨u, hsteps, hall, hru, hhostu, hfinal, hlenA, hlenB⟩ :=
      ih (setHost (is.map moveOf) t) hready (fun j hj => his j (List.mem_cons_of_mem i hj)) rfl
    refine ⟨u, ?_, ?_, hru, hhostu, fun _ hm => hfinal hsent.phase (hsurr.runRefused.trans hm), ?_, ?_⟩
    · rw [List.length_cons, steps, hstep, andThen_next, hsteps]
    · have hfirst : exec i { s with host := [] } = .next (setHost [] t) := hexec []
      rw [execAll, hfirst, andThen_next]
      exact hall
    · simp only [hlenA, setHost_rx, hsent.rxA, List.length_append, List.length_cons, List.length_nil]; omega
    · simp only [hlenB, setHost_rx, hsent.rxB, List.length_append, List.length_cons, List.length_nil]; omega

end Sys2Proof.Machine
end
